-- ==== Sys2Proof/Word.lean ====
section
/-! DEFINITION. The byte and the number types of the Iztra 432 (spec 00_scope.md, section 3). -/

namespace Sys2Proof

/-- One byte of a frame or of a pool block. -/
abbrev Byte := BitVec 8

/-- A 16-bit quantity: a tag, a sequence number, a CRC, a wrapping count. -/
abbrev Half := BitVec 16

/-- The tick counter and a deadline (R170: 0 to 4294967295, wrapping). -/
abbrev TickCount := BitVec 32

/-- A port number, P0 to P3. -/
abbrev PortId := Fin 4

/-- A channel number, C0 to C15. -/
abbrev ChanId := Fin 16

/-- A message record number, M0 to M255. -/
abbrev RecId := Fin 256

/-- A pool block number, 0 to 511. -/
abbrev BlockId := Fin 512

/-- A set of ports, as the manual's port set byte has it: bit p stands for port p (R167). -/
abbrev PortSet := BitVec 4

/-- A set of event kinds, as the event enable field has it: bit k stands for the kind of code k (R167). -/
abbrev KindSet := BitVec 12

end Sys2Proof
end

