-- ==== Sys2Proof/Syntax.lean ====
section
/-! DEFINITION. The commands and events the part takes: one constructor per row of spec/opcode_table.json. -/

namespace Sys2Proof

/-- What an expiry notice names (R21): the record, its channel and its sequence. -/
structure ExpiryNotice where
  record   : RecId
  channel  : ChanId
  sequence : Half
  deriving DecidableEq, Repr

/-- The two sources of the device reset (R168): the RESET pin and the power-on detector. -/
inductive ResetSource where
  | resetPin
  | powerDetector
  deriving DecidableEq, Repr

/-- How far the DATA_IN frame of a transaction came that chip-select ends before the frame's third byte (R158, R161). -/
inductive DataInCut where
  /-- The transaction carried no DATA_IN type byte, or the frame was not cut. -/
  | uncut
  /-- The type byte was the frame's only complete byte. -/
  | afterType
  /-- The chunk number completed as well. -/
  | afterNumber (chunk : Byte)
  deriving DecidableEq, Repr

/-- The steps of the part.

A row named after a COMMAND (ATTACH to MALFORMED_COMMAND) is the event in which the controller of port `p` takes the
command at the head of its command queue (R163); that queue entry, put there by COMMAND_FRAME (R162), carries the
command's parameters. A frame row carries the bytes the port master sends after the type byte. A notice or request
row is the event in which the table or the store takes what is waiting for it. -/
inductive Instr where
  -- commands of the port presence chapter and of the events chapter
  | attach (p : PortId)
  | detach (p : PortId)
  | checkin (p : PortId)
  | pause (p : PortId)
  | resume (p : PortId)
  | portQuery (p : PortId)
  | eventEnable (p : PortId)
  | eventRead (p : PortId)
  -- commands of the channels chapter
  | define (p : PortId)
  | lookup (p : PortId)
  | close (p : PortId)
  | closeForce (p : PortId)
  | purge (p : PortId)
  | modify (p : PortId)
  | channelQuery (p : PortId)
  -- subscription commands
  | subscribe (p : PortId)
  | unsubscribe (p : PortId)
  | subModify (p : PortId)
  | subQuery (p : PortId)
  -- posting
  | post (p : PortId)
  | stage (p : PortId)
  | commit (p : PortId)
  | discard (p : PortId)
  -- fetching
  | fetchPeek (p : PortId)
  | fetchConsume (p : PortId)
  | skip (p : PortId)
  -- streams
  | openPost (p : PortId)
  | openFetch (p : PortId)
  | streamEnd (p : PortId)
  | streamStop (p : PortId)
  | streamQuery (p : PortId)
  | malformedCommand (p : PortId)
  -- the port link; `rest` is the frame's complete bytes after its type byte
  | chipSelectFall (p : PortId)
  | poll (p : PortId) (rest : List Byte)
  | commandFrame (p : PortId) (rest : List Byte)
  | invalidFrameType (p : PortId) (type : Byte) (rest : List Byte)
  | responseFrame (p : PortId)
  | releaseByte (p : PortId) (value : Byte)
  | dataOut (p : PortId) (rest : List Byte)
  | dataIn (p : PortId) (chunk : Byte) (complement : Byte)
  -- resets and start-up; `requestHanded`: the head command's request was already with the table (R146, R148)
  | portReset (p : PortId) (requestHanded : Bool)
  | prstRelease (p : PortId)
  | deviceReset
  | powerOnReset
  | deviceResetRelease (source : ResetSource)
  | poolInitialisationDone
  -- timers
  | tick
  | periodExpiry (p : PortId)
  | pauseExpiry (p : PortId)
  | expiryTimerFire (r : RecId)
  | expiryNotice (n : ExpiryNotice)
  -- requests and notices of a port controller
  | release (p : PortId)
  | abortRequest (p : PortId)
  | abandonmentRequest (p : PortId)
  | attachNotice (p : PortId)
  | pauseNotice (p : PortId)
  | resumeNotice (p : PortId)
  | lapseNotice (p : PortId)
  | detachNotice (p : PortId)
  | resetNotice (p : PortId)
  | answerReturnAfterReset (p : PortId)
  | drainComplete (ch : ChanId)
  -- `dataInCut`: the complete bytes of a DATA_IN frame that the rise cuts before its third byte
  | chipSelectRise (p : PortId) (dataInCut : DataInCut)
  deriving DecidableEq, Repr

end Sys2Proof
end

