-- ==== Sys2Proof/Decode.lean ====
section
/-! DEFINITION. Commands spelled by words: spec/opcode_table.json gives no row any bits. -/

namespace Sys2Proof

/-- The command a word spells by the table's bits. No row of the table gives bits (every "fields" is empty and no row
has "fixed"), so no word spells a command. -/
def decodeTableWord (_nbits _w : Nat) : Option Instr := none

end Sys2Proof
end

