-- ==== Sys2Proof/Config.lean ====
section
/-! DEFINITION. What the part fixes (identity codes, pool dimensions) and what the manual leaves open. -/

namespace Sys2Proof

/-- The 16-bit check code of a pool block, as a function of the block's 64 bytes (R2).
The manual names no polynomial, so the function is a free value: nothing in the model can say what it is.
It decides one thing only: whether a stored code that a storage fault left behind still agrees with the block. -/
opaque Config.blockCheck : List Byte → Half

/-- The status code byte of LENGTH (R93, R128: STREAM_END of an open-ended write of no bytes is answered LENGTH).
The status code table of R167 lists 21 codes and none for LENGTH, so the byte is a free value. -/
opaque Config.lengthStatusCode : Byte

/-- PORT_QUERY identity (R149): family code 3Ch. -/
def Config.familyCode : Byte := 0x3C
/-- PORT_QUERY identity (R149): variant 04h. -/
def Config.variantCode : Byte := 0x04
/-- PORT_QUERY identity (R149): revision 01h. -/
def Config.revisionCode : Byte := 0x01

/-- Bytes of one pool block (spec section 1.1). -/
def Config.blockBytes : Nat := 64
/-- Blocks of the buffer pool (spec section 1.1). -/
def Config.poolBlocks : Nat := 512
/-- Command slots of a port (R162). -/
def Config.slots : Nat := 8
/-- Records an event queue holds (R150). -/
def Config.eventCapacity : Nat := 16
/-- Entries a staging list holds (R97). -/
def Config.stagingCapacity : Nat := 8
/-- Reservations a LATEST channel may have (R87). -/
def Config.latestReservations : Nat := 4

end Sys2Proof
end

