-- ==== Sys2Proof/Machine/State.lean ====
section
/-! DEFINITION. Everything the spec gives the Iztra 432 to hold, block by block, and its values after reset. -/

namespace Sys2Proof.Machine

/-! ## The message store (chapter 1) -/

/-- The buffer pool's bytes by address (byte k of block b at 64 b + k), in canonical form: addresses strictly rising,
no listed byte equal to 00h, which is what an unlisted address reads as (R23: pool initialisation writes 00h). -/
abbrev Memory := List Host.Cell

/-- The states of a message record (section 1.4). -/
inductive RecState where
  | free
  | filling
  | sealed
  | withdrawn
  deriving DecidableEq, Repr

/-- How a length was given (R5, R117): COUNT, or OPEN for an open-ended message. -/
inductive Form where
  | counted
  | openEnded
  deriving DecidableEq, Repr

/-- A message record (section 1.3). The defaults are the values of a FREE record (R23). -/
structure Record where
  state        : RecState := .free
  channel      : Option ChanId := none
  origin       : Option PortId := none
  form         : Option Form := none
  sequence     : Option Half := none
  length       : Nat := 0
  chain        : List BlockId := []
  tag          : Option Half := none
  ttl          : Option Nat := none
  deadline     : Option TickCount := none
  fired        : Bool := false
  pending      : Option PortSet := none
  claimant     : Option PortId := none
  redeliveries : Nat := 0
  holders      : PortSet := 0
  damaged      : Bool := false
  deriving DecidableEq, Repr

/-- The message store (chapter 1). -/
structure Store where
  /-- Contents of the 512 blocks (R1). -/
  pool    : Memory
  /-- Check codes (R2). Listed, by rising block number: the blocks whose stored code is not the code of their present
  contents as last written; every other block's stored code is the code of its contents. -/
  codes   : List (BlockId × Half)
  /-- The free block list, head first (R3). -/
  free    : List BlockId
  /-- The records M0 to M255. -/
  recs    : Vector Record 256
  /-- Expiry notices sent and not yet taken by the table (R21). -/
  notices : List ExpiryNotice
  deriving DecidableEq, Repr

/-- The store's values after a power-on or device reset (R23). -/
def Store.reset : Store where
  pool := []
  codes := []
  free := List.finRange 512
  recs := Vector.replicate 256 {}
  notices := []

/-! ## The channel table (chapters 2 to 4) -/

/-- Delivery discipline (section 2.2). -/
inductive Kind where
  | fanout
  | queue
  | latest
  deriving DecidableEq, Repr

/-- Channel states (section 2.8). -/
inductive ChanState where
  | unused
  | opened
  | draining
  deriving DecidableEq, Repr

/-- Mode a subscriber asks for (section 3.1). -/
inductive ReqMode where
  | blocking
  | lossy
  deriving DecidableEq, Repr

/-- Mode in which a FANOUT subscription is treated now (R51). -/
inductive EffMode where
  | blocking
  | lossy
  | deferred
  deriving DecidableEq, Repr

/-- When ARRIVAL is raised (R57). -/
inductive Notify where
  | never
  | each
  | edge
  deriving DecidableEq, Repr

/-- The fields a subscription has on a FANOUT channel only (section 3.1). -/
structure FanSub where
  requested : ReqMode
  effective : EffMode
  limit     : Nat
  deriving DecidableEq, Repr

/-- A subscription record (section 3.1); its port is the number of the slot that holds it. -/
structure Sub where
  /-- SUSPENDED, else ACTIVE. -/
  suspended : Bool
  fan       : Option FanSub
  notify    : Notify
  overrun   : Nat := 0
  seen      : Option Half := none
  resumed   : Bool := false
  /-- Suspension mark: the posted count at suspension (R59). -/
  mark      : Option Half := none
  deriving DecidableEq, Repr

/-- A channel record (section 2.1). The defaults are the values of an UNUSED channel (R27). -/
structure Channel where
  state       : ChanState := .unused
  name        : Option (List Byte) := none
  kind        : Option Kind := none
  depth       : Nat := 0
  quota       : Nat := 0
  blocksInUse : Nat := 0
  posters     : PortSet := 0
  admins      : PortSet := 0
  log         : List RecId := []
  reserved    : Nat := 0
  withdrawn   : Nat := 0
  nextSeq     : Half := 1
  subs        : Vector (Option Sub) 4 := Vector.replicate 4 none
  posted      : Half := 0
  dropped     : Nat := 0
  deriving DecidableEq, Repr

/-- The table's presence mark for a port (R45). -/
inductive Mark where
  | absent
  | present
  | paused
  deriving DecidableEq, Repr

/-- The channel table. -/
structure Table where
  chans : Vector Channel 16
  marks : Vector Mark 4
  deriving DecidableEq, Repr

/-- The table's values after a power-on or device reset (R27, R44, R45). -/
def Table.reset : Table where
  chans := Vector.replicate 16 {}
  marks := Vector.replicate 4 .absent

/-! ## Events (chapter 9) -/

/-- The twelve event kinds, in the order of their codes (R167). -/
inductive EventKind where
  | arrival
  | overrun
  | channelClosing
  | channelGone
  | channelPurged
  | streamDone
  | streamAborted
  | groupVoid
  | discarded
  | presenceLow
  | peer
  | expiredHeld
  deriving DecidableEq, Repr

/-- Reasons of STREAM_ABORTED and of PEER (section 9.1). -/
inductive Reason where
  | stopped
  | streamLapsed
  | channelGone
  | attached
  | peerLapsed
  | detached
  | reset
  deriving DecidableEq, Repr

/-- An event as it is raised: kind, subject (a channel or a port number, as the kind says), sequence, reason. -/
structure Event where
  kind     : EventKind
  subject  : Nat
  sequence : Option Half := none
  reason   : Option Reason := none
  deriving DecidableEq, Repr

/-- A record on an event queue (R150). -/
structure EventRecord where
  kind     : EventKind
  subject  : Nat
  sequence : Option Half
  count    : Nat
  reason   : Option Reason
  deriving DecidableEq, Repr

/-! ## The port controller (chapters 5, 7, 8) -/

/-- A port's presence (R136). -/
inductive Presence where
  | detached
  | present
  | paused
  | lapsed
  deriving DecidableEq, Repr

/-- The port record (R136). The defaults are its reset values. -/
structure PortRecord where
  state       : Presence := .detached
  period      : Option Nat := none
  debt        : Int := 0
  /-- Ticks to the next period expiry; 0 or less when an expiry is due and not yet taken; absent when stopped (R138). -/
  periodTimer : Option Int := none
  pauseLimit  : Option Nat := none
  /-- Ticks to the pause expiry, 0 when it is due and not yet taken; absent when stopped (R138). -/
  pauseTimer  : Option Nat := none
  checkinOwed : Bool := false
  enables     : KindSet := 0
  attnEnable  : Bool := false
  deriving DecidableEq, Repr

/-- States of the stream context (R117). -/
inductive StreamState where
  | idle
  | writing
  | reading
  | readDone
  deriving DecidableEq, Repr

/-- Way the bytes of a stream move (R117). -/
inductive Direction where
  | write
  | read
  deriving DecidableEq, Repr

/-- Why a data frame was rejected (R117). -/
inductive Rejection where
  | order
  | length
  | nospace
  | state
  | paused
  deriving DecidableEq, Repr

/-- How the port's last stream ended (R125). -/
inductive StreamOutcome where
  | sealed (sequence : Half)
  | ended
  | stopped
  | lapsed
  | channelGone
  deriving DecidableEq, Repr

/-- The stream context (R117). The defaults are its reset values. -/
structure Stream where
  state      : StreamState := .idle
  direction  : Option Direction := none
  mode       : Option Form := none
  channel    : Option ChanId := none
  record     : Option RecId := none
  byteCount  : Nat := 0
  remaining  : Option Nat := some 0
  lastLength : Nat := 0
  expected   : Byte := 0
  burst      : Nat := 0
  progress   : Nat := 0
  paced      : Bool := false
  consume    : Bool := false
  damageSeen : Bool := false
  rejection  : Option Rejection := none
  outcome    : Option StreamOutcome := none
  /-- XREQ is asserted; bit 0 of the status byte carries the same value (R126). -/
  xreq       : Bool := false
  /-- The port has resumed and the ready condition waits for the next chip-select fall (R134). -/
  awaitFall  : Bool := false
  deriving DecidableEq, Repr

/-- An entry of a staging list (R97). -/
inductive StageEntry where
  | live (r : RecId) (ch : ChanId)
  | void (ch : ChanId)
  deriving DecidableEq, Repr

/-! ## The link interface (chapter 10) -/

/-- The 21 status codes, in the order of their codes (R167), and LENGTH, which R128 answers and R167 does not code. -/
inductive Status where
  | ok
  | malformed
  | limit
  | detached
  | lapsed
  | paused
  | order
  | nochannel
  | exists_
  | closed
  | denied
  | kind
  | nosub
  | full
  | nospace
  | empty
  | busy
  | voided
  | withdrawn
  | skipped
  | quota
  | length
  deriving DecidableEq, Repr

/-- A command accepted into a slot (R162). Its parameter length is the length of `params`. -/
structure Command where
  tag       : Byte
  code      : Byte
  params    : List Byte
  malformed : Bool
  deriving DecidableEq, Repr

/-- A response record (R163). -/
structure Response where
  tag     : Byte
  code    : Byte
  status  : Status
  results : List Byte
  deriving DecidableEq, Repr

/-- The last-frame result (R159). -/
inductive FrameResult where
  | accepted
  | refused
  | check
  | rejected
  deriving DecidableEq, Repr

/-- The transaction in progress on a link (R158). -/
inductive Transaction where
  /-- No transaction. -/
  | idle
  /-- Chip-select has fallen and no frame has acted yet. -/
  | begun
  /-- As `begun`, but chip-select fell while READY was 0 and READY has risen since: no frame is taken (R169). -/
  | early
  /-- A RESPONSE frame whose type byte found the response queue empty: a NONE frame (R164). -/
  | noneFrame
  /-- A RESPONSE frame that fixed the response `fixed`; `standing` is clear once that response was discarded (R164). -/
  | response (fixed : Response) (standing : Bool)
  /-- The frame's outcome is decided; a result still to be written at the frame's end, if any (R159, R164). -/
  | decided (atEnd : Option FrameResult)
  deriving DecidableEq, Repr

/-- The link interface of a port (R158 to R166). The defaults are its reset values. -/
structure Link where
  commands    : List Command := []
  responses   : List Response := []
  result      : FrameResult := .accepted
  transaction : Transaction := .idle
  /-- Receive frame buffer: the bytes of the frame the master sent last. -/
  rx          : List Byte := []
  /-- Transmit frame buffer: the bytes driven in this transaction, the status byte first. -/
  tx          : List Byte := []
  deriving DecidableEq, Repr

/-! ## What a controller has under way with the table and the store -/

/-- A request that needs the table, as the controller hands it over (R163, R128, R129). -/
inductive Request where
  /-- Any command whose request is its own parameters. -/
  | command (c : Command)
  /-- STREAM_END of an open-ended write: the seal request of R93. -/
  | seal_ (r : RecId) (ch : ChanId)
  /-- STREAM_END of a read: the end-of-read request of R129. -/
  | endOfRead (r : RecId) (ch : ChanId) (consume : Bool)
  deriving DecidableEq, Repr

/-- What waits on a port's path to the table, oldest first (R25). `awaited`: the controller's command in progress is
answered when the notice is taken. -/
inductive TableMsg where
  | abort (r : RecId) (ch : ChanId)
  | abandon (r : RecId) (ch : ChanId)
  | attachNotice (awaited : Bool)
  | pauseNotice
  | resumeNotice
  | lapseNotice
  | detachNotice (awaited : Bool)
  | resetNotice
  /-- A request handed to the table before PRST was asserted (R146). -/
  | request (q : Request)
  deriving DecidableEq, Repr

/-- What a table answer that returns after a port reset says the request made (R146). -/
inductive Made where
  | nothing
  | admitted (r : RecId) (ch : ChanId)
  | held (r : RecId)
  deriving DecidableEq, Repr

/-- One port: its controller, its link interface, its paths and its input pins. The defaults are the reset values. -/
structure PortState where
  record   : PortRecord := {}
  stream   : Stream := {}
  staging  : List StageEntry := []
  events   : List EventRecord := []
  lost     : Nat := 0
  /-- The command in progress whose answer waits for the table: an ATTACH or a DETACH (R139, R145). -/
  busy     : Option Command := none
  link     : Link := {}
  /-- Requests and notices handed to the table and not yet taken. -/
  toTable  : List TableMsg := []
  /-- Releases handed to the store and not yet taken (R15); a forced close leaves them here (log 44). -/
  releases : List RecId := []
  /-- Answers of the table returning to a controller that was reset (R146). -/
  returns  : List Made := []
  /-- PRST is low (R171). -/
  prstLow  : Bool := false
  /-- Chip-select is low. -/
  csLow    : Bool := false
  deriving DecidableEq, Repr

/-! ## The part -/

/-- Start-up (R168, R169): the device reset stands, the pool is being initialised, or READY is 1. -/
inductive Phase where
  | held
  | initialising
  | ready
  deriving DecidableEq, Repr

/-- The Iztra 432. -/
structure State where
  store     : Store
  table     : Table
  ports     : Vector PortState 4
  /-- The timebase's tick counter (R170). -/
  tick      : TickCount
  phase     : Phase
  /-- RESET is driven low (R168). -/
  resetLow  : Bool
  /-- The power-on detector holds the part in device reset (R168). -/
  powerHold : Bool
  /-- The commands that wait, first in, first out. -/
  pending   : List Instr
  deriving DecidableEq, Repr

/-- The part after a power-on reset, with the detector still holding it (R168, R23, R27, R136, R117, R157, R166).
The manual gives no levels for the input pins: RESET, PRST and chip-select stand high (DESIGN CHOICE, log 3). -/
def State.reset : State where
  store := Store.reset
  table := Table.reset
  ports := Vector.replicate 4 {}
  tick := 0
  phase := .held
  resetLow := false
  powerHold := true
  pending := []

/-- Why the part stops. The manual names no behaviour that stops it: a parameter out of range is answered with a status
code (00 section 4), a damaged block is flagged (R18), a bad frame is reported (R159). -/
inductive Fault where
  /-- Raised by no meaning: the part has no stop. Safe. -/
  | stopped
  deriving DecidableEq, Repr

/-- Why a command has no meaning in the model. -/
inductive Refusal where
  /-- Raised by Dispatch for a row that has no meaning yet; no row is in that case. Safe. -/
  | notModelled (mnemonic : String)
  deriving DecidableEq, Repr

/-- What a meaning answers. -/
abbrev Result := Host.Outcome State Fault Refusal

end Sys2Proof.Machine
end

