-- ==== Sys2Proof/Machine/Access.lean ====
section
/-! DEFINITION. Reading and updating the part's state: port sets, records, channels, ports. -/

namespace Sys2Proof.Machine

/-! ## Sets of ports -/

/-- The four ports, in ascending number. -/
def allPorts : List PortId := List.finRange 4

/-- The sixteen channels, in ascending number. -/
def allChannels : List ChanId := List.finRange 16

/-- The 256 records, in ascending number. -/
def allRecords : List RecId := List.finRange 256

/-- Port p is in the set. -/
def inSet (ps : PortSet) (p : PortId) : Bool := ps.getLsbD p.val

/-- The set of port p alone. -/
def portBit (p : PortId) : PortSet := BitVec.ofNat 4 (2 ^ p.val)

def insertPort (ps : PortSet) (p : PortId) : PortSet := ps ||| portBit p

def erasePort (ps : PortSet) (p : PortId) : PortSet := ps &&& ~~~(portBit p)

/-- The members of the set, in ascending number. -/
def members (ps : PortSet) : List PortId := allPorts.filter (inSet ps)

/-- The set of the ports that satisfy a condition. -/
def portsWhere (f : PortId → Bool) : PortSet :=
  allPorts.foldl (fun ps p => if f p then insertPort ps p else ps) 0

/-! ## Memory -/

/-- The byte at an address; an unlisted address reads 00h (R23). -/
def Memory.read : Memory → Nat → Byte
  | [], _ => 0
  | (b, v) :: m, a => if a = b then v else Memory.read m a

/-- Store a byte, keeping the canonical form. -/
def Memory.write : Memory → Nat → Byte → Memory
  | [], a, v => if v = 0 then [] else [(a, v)]
  | (b, w) :: m, a, v =>
    if a < b then (if v = 0 then (b, w) :: m else (a, v) :: (b, w) :: m)
    else if a = b then (if v = 0 then m else (a, v) :: m)
    else (b, w) :: Memory.write m a v

/-- Every listed address is at least `lo`, below 32768, listed in rising order, and lists a byte other than 00h. -/
def Memory.wfFrom : Nat → Memory → Bool
  | _, [] => true
  | lo, (a, v) :: m => decide (lo ≤ a) && decide (a < 32768) && (v != 0) && Memory.wfFrom (a + 1) m

/-- The canonical form of the pool's contents. -/
def Memory.wf (m : Memory) : Bool := Memory.wfFrom 0 m

/-! ## Records -/

def Store.record (st : Store) (r : RecId) : Record := st.recs[r]

def Store.setRecord (st : Store) (r : RecId) (x : Record) : Store := { st with recs := st.recs.set r x }

def State.record (s : State) (r : RecId) : Record := s.store.record r

def State.setStore (s : State) (st : Store) : State := { s with store := st }

/-! ## Channels -/

def Table.chan (t : Table) (ch : ChanId) : Channel := t.chans[ch]

def State.chan (s : State) (ch : ChanId) : Channel := s.table.chan ch

def State.setChan (s : State) (ch : ChanId) (c : Channel) : State :=
  { s with table := { s.table with chans := s.table.chans.set ch c } }

def State.modChan (s : State) (ch : ChanId) (f : Channel → Channel) : State := s.setChan ch (f (s.chan ch))

/-- The subscription in a port's slot on a channel. -/
def Channel.sub (c : Channel) (p : PortId) : Option Sub := c.subs[p]

def Channel.setSub (c : Channel) (p : PortId) (x : Option Sub) : Channel := { c with subs := c.subs.set p x }

/-- Change the subscription in a port's slot, if there is one. -/
def Channel.modSub (c : Channel) (p : PortId) (f : Sub → Sub) : Channel := c.setSub p ((c.sub p).map f)

/-- The port's slot holds an ACTIVE subscription. -/
def Channel.active (c : Channel) (p : PortId) : Bool :=
  match c.sub p with
  | some sub => !sub.suspended
  | none => false

/-- The FANOUT fields of the port's subscription. -/
def Channel.fanSub (c : Channel) (p : PortId) : Option FanSub := (c.sub p).bind Sub.fan

def Channel.effective (c : Channel) (p : PortId) : Option EffMode := (c.fanSub p).map FanSub.effective

/-- The table's presence mark of a port (R45). -/
def State.mark (s : State) (p : PortId) : Mark := s.table.marks[p]

def State.setMark (s : State) (p : PortId) (m : Mark) : State :=
  { s with table := { s.table with marks := s.table.marks.set p m } }

/-! ## Ports -/

def State.port (s : State) (p : PortId) : PortState := s.ports[p]

def State.setPort (s : State) (p : PortId) (q : PortState) : State := { s with ports := s.ports.set p q }

def State.modPort (s : State) (p : PortId) (f : PortState → PortState) : State := s.setPort p (f (s.port p))

/-- Change the port record. -/
def PortState.modRecord (q : PortState) (f : PortRecord → PortRecord) : PortState := { q with record := f q.record }

/-- Change the stream context. -/
def PortState.modStream (q : PortState) (f : Stream → Stream) : PortState := { q with stream := f q.stream }

/-- Change the link interface. -/
def PortState.modLink (q : PortState) (f : Link → Link) : PortState := { q with link := f q.link }

/-- Do something for each port, in ascending number. -/
def forPorts (f : PortId → State → State) (s : State) : State := allPorts.foldl (fun s p => f p s) s

/-- Do something for each channel, in ascending number. -/
def forChannels (f : ChanId → State → State) (s : State) : State := allChannels.foldl (fun s ch => f ch s) s

/-! ## The part -/

/-- The pool is initialised and no device reset stands: blocks take requests, commands and frames (R169). -/
def State.running (s : State) : Bool := s.phase == .ready

end Sys2Proof.Machine
end

