-- ==== Sys2Proof/Machine/Operands.lean ====
section
/-! DEFINITION. The forms of the port link: codes, parameter fields and their checks, result fields, CRC and frames
(chapter 10, section 10.7; the parameter ranges of the chapters that own the commands). -/

namespace Sys2Proof.Machine

/-! ## Numbers in frames -/

/-- A two-byte field, least significant byte first (R167). -/
def half (lo hi : Byte) : Half := hi ++ lo

/-- A number sent as one byte (R167). -/
def enc1 (n : Nat) : List Byte := [BitVec.ofNat 8 n]

/-- A number sent as two bytes, least significant first (R167). -/
def enc2 (n : Nat) : List Byte := [BitVec.ofNat 8 n, BitVec.ofNat 8 (n / 256)]

/-- A flag: 0 clear, 1 set (R167). -/
def encFlag (b : Bool) : List Byte := if b then [1] else [0]

/-- A debt: a two's-complement byte (R167). -/
def encDebt (d : Int) : List Byte := [BitVec.ofInt 8 d]

/-- A port set: bit p for port p (R167). -/
def encSet (s : PortSet) : List Byte := [s.setWidth 8]

/-- An event enable set: bit k for the kind of code k (R167). -/
def encKinds (s : KindSet) : List Byte := enc2 s.toNat

/-- A field reported absent whose values do not include 0 is sent as 0 (R167): two bytes. -/
def encOpt2 (n : Option Nat) : List Byte := enc2 (n.getD 0)

/-- A field reported absent whose values include 0 is sent with every byte FFh (R167): one byte. -/
def encOpt1FF (n : Option Nat) : List Byte := n.elim [0xFF] enc1

/-- A field reported absent whose values include 0 is sent with every byte FFh (R167): two bytes. -/
def encOpt2FF (n : Option Nat) : List Byte := n.elim [0xFF, 0xFF] enc2

/-! ## Encoded values (R167; enumerated values without an encoding of their own take their place in the list) -/

def Kind.code : Kind → Nat
  | .fanout => 0 | .queue => 1 | .latest => 2

/-- Section 2.1 lists UNUSED, OPEN, DRAINING. -/
def ChanState.code : ChanState → Nat
  | .unused => 0 | .opened => 1 | .draining => 2

def ReqMode.code : ReqMode → Nat
  | .blocking => 0 | .lossy => 1

/-- Section 3.1 lists BLOCKING, LOSSY, DEFERRED. -/
def EffMode.code : EffMode → Nat
  | .blocking => 0 | .lossy => 1 | .deferred => 2

def Notify.code : Notify → Nat
  | .never => 0 | .each => 1 | .edge => 2

/-- R136 lists DETACHED, PRESENT, PAUSED, LAPSED. -/
def Presence.code : Presence → Nat
  | .detached => 0 | .present => 1 | .paused => 2 | .lapsed => 3

/-- R117 lists IDLE, WRITING, READING, READ_DONE. -/
def StreamState.code : StreamState → Nat
  | .idle => 0 | .writing => 1 | .reading => 2 | .readDone => 3

/-- R117 lists WRITE, READ. -/
def Direction.code : Direction → Nat
  | .write => 0 | .read => 1

/-- R117 lists COUNT or OPEN. -/
def Form.code : Form → Nat
  | .counted => 0 | .openEnded => 1

/-- R117 lists ORDER, LENGTH, NOSPACE, STATE, PAUSED, or none. -/
def rejectionCode : Option Rejection → Nat
  | some .order => 0 | some .length => 1 | some .nospace => 2 | some .state => 3 | some .paused => 4 | none => 5

/-- R117 lists SEALED with its sequence, ENDED, STOPPED, LAPSED, CHANNEL_GONE, or none. -/
def outcomeCode : Option StreamOutcome → Nat
  | some (.sealed _) => 0 | some .ended => 1 | some .stopped => 2 | some .lapsed => 3 | some .channelGone => 4
  | none => 5

def EventKind.code : EventKind → Nat
  | .arrival => 0 | .overrun => 1 | .channelClosing => 2 | .channelGone => 3 | .channelPurged => 4
  | .streamDone => 5 | .streamAborted => 6 | .groupVoid => 7 | .discarded => 8 | .presenceLow => 9
  | .peer => 10 | .expiredHeld => 11

/-- STREAM_ABORTED: 0 STOPPED, 1 LAPSED, 2 CHANNEL_GONE. PEER: 0 ATTACHED, 1 LAPSED, 2 DETACHED, 3 RESET. -/
def Reason.code : Reason → Nat
  | .stopped => 0 | .streamLapsed => 1 | .channelGone => 2
  | .attached => 0 | .peerLapsed => 1 | .detached => 2 | .reset => 3

def Status.code : Status → Byte
  | .ok => 0x00 | .malformed => 0x01 | .limit => 0x02 | .detached => 0x03 | .lapsed => 0x04 | .paused => 0x05
  | .order => 0x06 | .nochannel => 0x07 | .exists_ => 0x08 | .closed => 0x09 | .denied => 0x0A | .kind => 0x0B
  | .nosub => 0x0C | .full => 0x0D | .nospace => 0x0E | .empty => 0x0F | .busy => 0x10 | .voided => 0x11
  | .withdrawn => 0x12 | .skipped => 0x13 | .quota => 0x14
  | .length => Config.lengthStatusCode

/-- Last-frame result as status bits 5 and 4 (R167). -/
def FrameResult.code : FrameResult → Nat
  | .accepted => 0 | .refused => 1 | .check => 2 | .rejected => 3

/-- Burst encoding: 0, 1, 2 or 4 for 0, 64, 128 or 256 bytes (R167). -/
def encBurst (burst : Nat) : List Byte := enc1 (burst / 64)

/-! ## Command codes (R167) -/

def Code.attach : Byte := 0x10
def Code.detach : Byte := 0x11
def Code.checkin : Byte := 0x12
def Code.pause : Byte := 0x13
def Code.resume : Byte := 0x14
def Code.portQuery : Byte := 0x15
def Code.eventEnable : Byte := 0x16
def Code.eventRead : Byte := 0x17
def Code.define : Byte := 0x20
def Code.lookup : Byte := 0x21
def Code.close : Byte := 0x22
def Code.purge : Byte := 0x23
def Code.modify : Byte := 0x24
def Code.channelQuery : Byte := 0x25
def Code.subscribe : Byte := 0x30
def Code.unsubscribe : Byte := 0x31
def Code.subModify : Byte := 0x32
def Code.subQuery : Byte := 0x33
def Code.post : Byte := 0x40
def Code.stage : Byte := 0x41
def Code.commit : Byte := 0x42
def Code.discard : Byte := 0x43
def Code.fetch : Byte := 0x50
def Code.skip : Byte := 0x51
def Code.openPost : Byte := 0x60
def Code.openFetch : Byte := 0x61
def Code.streamEnd : Byte := 0x62
def Code.streamStop : Byte := 0x63
def Code.streamQuery : Byte := 0x64

/-- Whether the code is one of the 29 command codes and allows `n` parameter bytes (R162, R167). -/
def paramLengthAllowed (code : Byte) (n : Nat) : Bool :=
  match code.toNat with
  | 0x10 => n == 5 | 0x11 => n == 0 | 0x12 => n == 0 | 0x13 => n == 2 | 0x14 => n == 0 | 0x15 => n == 0
  | 0x16 => n == 3 | 0x17 => n == 0
  | 0x20 => n == 14 | 0x21 => n == 8 | 0x22 => n == 2 | 0x23 => n == 1 | 0x24 => n == 7 | 0x25 => n == 1
  | 0x30 => n == 4 | 0x31 => n == 1 | 0x32 => n == 5 | 0x33 => n == 2
  | 0x40 => 7 ≤ n && n ≤ 54 | 0x41 => 7 ≤ n && n ≤ 54 | 0x42 => n == 0 | 0x43 => n == 0
  | 0x50 => n == 5 | 0x51 => n == 2
  | 0x60 => n == 9 | 0x61 => n == 3 | 0x62 => n == 0 | 0x63 => n == 0 | 0x64 => n == 0
  | _ => false

/-! ## Parameter fields and their checks (R163 check 3) -/

/-- A channel number, 0 to 15 (R26). -/
def channelField (b : Byte) : Option ChanId := if h : b.toNat < 16 then some ⟨b.toNat, h⟩ else none

/-- A port set byte, its upper four bits clear (R163). -/
def setField (b : Byte) : Option PortSet := if b.toNat < 16 then some (b.setWidth 4) else none

/-- A non-empty port set (R32, R42). -/
def nonEmptySetField (b : Byte) : Option PortSet := (setField b).filter (· != 0)

/-- A value of 0 clear or 1 set. -/
def flagField (b : Byte) : Option Bool :=
  match b.toNat with
  | 0 => some false | 1 => some true | _ => none

/-- A two-byte event enable set, bits 12 to 15 clear (R155, R167). -/
def kindsField (lo hi : Byte) : Option KindSet :=
  if (half lo hi).toNat < 4096 then some ((half lo hi).setWidth 12) else none

/-- A number from `lo` to `hi`. -/
def rangeField (lo hi n : Nat) : Option Nat := if lo ≤ n ∧ n ≤ hi then some n else none

def kindField (b : Byte) : Option Kind :=
  match b.toNat with
  | 0 => some .fanout | 1 => some .queue | 2 => some .latest | _ => none

def modeField (b : Byte) : Option ReqMode :=
  match b.toNat with
  | 0 => some .blocking | 1 => some .lossy | _ => none

def notifyField (b : Byte) : Option Notify :=
  match b.toNat with
  | 0 => some .never | 1 => some .each | 2 => some .edge | _ => none

def burstField (b : Byte) : Option Nat :=
  match b.toNat with
  | 0 => some 0 | 1 => some 64 | 2 => some 128 | 4 => some 256 | _ => none

/-- Whether a channel name is acceptable: 8 bytes, each 20h to 7Eh, not all 20h (R28). -/
def nameAcceptable (name : List Byte) : Bool :=
  name.length == 8 && name.all (fun b => 0x20 ≤ b.toNat && b.toNat ≤ 0x7E) && name.any (· != 0x20)

/-- A field that a mask bit marks present, checked only then (R163). -/
def optField {α : Type} (present : Bool) (value : Option α) : Option (Option α) :=
  if present then value.map some else some none

/-! ## Parameters of the commands -/

structure AttachParams where
  period     : Nat
  enables    : KindSet
  attnEnable : Bool
  deriving DecidableEq, Repr

/-- ATTACH (R139): period 1 to 1000 ms, event enables, attention enable. -/
def parseAttach : List Byte → Option AttachParams
  | [p0, p1, e0, e1, a] => do
    let period ← rangeField 1 1000 (half p0 p1).toNat
    let enables ← kindsField e0 e1
    let attn ← flagField a
    pure ⟨period, enables, attn⟩
  | _ => none

/-- PAUSE (R142): a limit of 1 to 60000 ms. -/
def parsePause : List Byte → Option Nat
  | [l0, l1] => rangeField 1 60000 (half l0 l1).toNat
  | _ => none

structure EnableParams where
  enables    : KindSet
  attnEnable : Bool
  deriving DecidableEq, Repr

/-- EVENT_ENABLE (R155). -/
def parseEventEnable : List Byte → Option EnableParams
  | [e0, e1, a] => do
    let enables ← kindsField e0 e1
    let attn ← flagField a
    pure ⟨enables, attn⟩
  | _ => none

/-- Commands without parameters. -/
def parseNone : List Byte → Option Unit
  | [] => some ()
  | _ => none

structure DefineParams where
  name    : List Byte
  kind    : Kind
  depth   : Nat
  quota   : Nat
  posters : PortSet
  admins  : PortSet
  deriving DecidableEq, Repr

/-- The depth a kind allows: FANOUT and QUEUE 1 to 64, LATEST 1 (R32). -/
def depthField (k : Kind) (n : Nat) : Option Nat :=
  match k with
  | .fanout => rangeField 1 64 n
  | .queue => rangeField 1 64 n
  | .latest => rangeField 1 1 n

/-- DEFINE (R32). -/
def parseDefine (bs : List Byte) : Option DefineParams :=
  match bs.drop 8 with
  | [k, d, q0, q1, ps, ad] => do
    let name ← if nameAcceptable (bs.take 8) then some (bs.take 8) else none
    let kind ← kindField k
    let depth ← depthField kind d.toNat
    let quota ← rangeField 1 512 (half q0 q1).toNat
    let posters ← nonEmptySetField ps
    let admins ← nonEmptySetField ad
    pure ⟨name, kind, depth, quota, posters, admins⟩
  | _ => none

/-- LOOKUP (R34). -/
def parseLookup (bs : List Byte) : Option (List Byte) := if nameAcceptable bs then some bs else none

structure CloseParams where
  channel : ChanId
  force   : Bool
  deriving DecidableEq, Repr

/-- CLOSE (R35): a channel and an option, 0 none or 1 FORCE. -/
def parseClose : List Byte → Option CloseParams
  | [c, o] => do
    let channel ← channelField c
    let force ← flagField o
    pure ⟨channel, force⟩
  | _ => none

/-- PURGE, CHANNEL_QUERY, UNSUBSCRIBE: a channel. -/
def parseChannel : List Byte → Option ChanId
  | [c] => channelField c
  | _ => none

structure ModifyParams where
  channel : ChanId
  depth   : Option Nat
  quota   : Option Nat
  posters : Option PortSet
  admins  : Option PortSet
  deriving DecidableEq, Repr

/-- MODIFY (R42): a channel and four settings, each marked present or absent. -/
def parseModify : List Byte → Option ModifyParams
  | [c, m, d, q0, q1, ps, ad] => do
    let channel ← channelField c
    let mask ← if m.toNat < 16 then some m else none
    let depth ← optField (mask.getLsbD 0) (rangeField 1 64 d.toNat)
    let quota ← optField (mask.getLsbD 1) (rangeField 1 512 (half q0 q1).toNat)
    let posters ← optField (mask.getLsbD 2) (nonEmptySetField ps)
    let admins ← optField (mask.getLsbD 3) (nonEmptySetField ad)
    pure ⟨channel, depth, quota, posters, admins⟩
  | _ => none

structure SubscribeParams where
  channel : ChanId
  mode    : ReqMode
  limit   : Nat
  notify  : Notify
  deriving DecidableEq, Repr

/-- SUBSCRIBE (R62). -/
def parseSubscribe : List Byte → Option SubscribeParams
  | [c, m, l, n] => do
    let channel ← channelField c
    let mode ← modeField m
    let limit ← rangeField 1 64 l.toNat
    let notify ← notifyField n
    pure ⟨channel, mode, limit, notify⟩
  | _ => none

structure SubModifyParams where
  channel : ChanId
  mode    : Option ReqMode
  limit   : Option Nat
  notify  : Option Notify
  deriving DecidableEq, Repr

/-- SUB_MODIFY (R64). -/
def parseSubModify : List Byte → Option SubModifyParams
  | [c, k, m, l, n] => do
    let channel ← channelField c
    let mask ← if k.toNat < 8 then some k else none
    let mode ← optField (mask.getLsbD 0) (modeField m)
    let limit ← optField (mask.getLsbD 1) (rangeField 1 64 l.toNat)
    let notify ← optField (mask.getLsbD 2) (notifyField n)
    pure ⟨channel, mode, limit, notify⟩
  | _ => none

structure SubQueryParams where
  channel : ChanId
  clear   : Bool
  deriving DecidableEq, Repr

/-- SUB_QUERY (R65). -/
def parseSubQuery : List Byte → Option SubQueryParams
  | [c, o] => do
    let channel ← channelField c
    let clear ← flagField o
    pure ⟨channel, clear⟩
  | _ => none

structure PostParams where
  channel : ChanId
  tag     : Option Half
  ttl     : Option Nat
  payload : List Byte
  deriving DecidableEq, Repr

/-- The options byte of a post: bit 0 tag present, bit 1 time to live present, no other bit (R163, R167). -/
def tagTtlFields (options t0 t1 l0 l1 : Byte) : Option (Option Half × Option Nat) :=
  if options.toNat < 4 then
    match optField (options.getLsbD 1) (rangeField 1 60000 (half l0 l1).toNat) with
    | some ttl => some (if options.getLsbD 0 then some (half t0 t1) else none, ttl)
    | none => none
  else none

/-- POST and STAGE (R84, R95, R98). -/
def parsePost : List Byte → Option PostParams
  | c :: o :: t0 :: t1 :: l0 :: l1 :: payload => do
    let channel ← channelField c
    let (tag, ttl) ← tagTtlFields o t0 t1 l0 l1
    pure ⟨channel, tag, ttl, payload⟩
  | _ => none

structure FetchParams where
  channel : ChanId
  consume : Bool
  offset  : Nat
  count   : Nat
  deriving DecidableEq, Repr

/-- FETCH (R103). -/
def parseFetch : List Byte → Option FetchParams
  | [c, m, o0, o1, n] => do
    let channel ← channelField c
    let consume ← flagField m
    let offset ← rangeField 0 4095 (half o0 o1).toNat
    let count ← rangeField 1 48 n.toNat
    pure ⟨channel, consume, offset, count⟩
  | _ => none

structure SkipParams where
  channel : ChanId
  count   : Nat
  deriving DecidableEq, Repr

/-- SKIP (R111). -/
def parseSkip : List Byte → Option SkipParams
  | [c, n] => do
    let channel ← channelField c
    let count ← rangeField 1 64 n.toNat
    pure ⟨channel, count⟩
  | _ => none

structure OpenPostParams where
  channel : ChanId
  length  : Nat
  burst   : Nat
  tag     : Option Half
  ttl     : Option Nat
  deriving DecidableEq, Repr

/-- OPEN_POST (R84, R118). The length is not a parameter check: the table makes it (R85). -/
def parseOpenPost : List Byte → Option OpenPostParams
  | [c, o, n0, n1, b, t0, t1, l0, l1] => do
    let channel ← channelField c
    let burst ← burstField b
    let (tag, ttl) ← tagTtlFields o t0 t1 l0 l1
    pure ⟨channel, (half n0 n1).toNat, burst, tag, ttl⟩
  | _ => none

structure OpenFetchParams where
  channel : ChanId
  consume : Bool
  burst   : Nat
  deriving DecidableEq, Repr

/-- OPEN_FETCH (R119). -/
def parseOpenFetch : List Byte → Option OpenFetchParams
  | [c, m, b] => do
    let channel ← channelField c
    let consume ← flagField m
    let burst ← burstField b
    pure ⟨channel, consume, burst⟩
  | _ => none

/-! ## The CRC (R160) -/

/-- One data bit: the register's top bit is compared with it, the register shifts left, and when they differed it is
combined with 8005h. -/
def crcBit (reg : Half) (bit : Bool) : Half :=
  if reg.msb == bit then reg <<< 1 else (reg <<< 1) ^^^ 0x8005#16

/-- One byte, most significant bit first. -/
def crcByte (reg : Half) (b : Byte) : Half :=
  [7, 6, 5, 4, 3, 2, 1, 0].foldl (fun r i => crcBit r (b.getLsbD i)) reg

/-- The CRC of the bytes covered, from a register of FFFFh, with no final inversion. -/
def crc16 (bs : List Byte) : Half := bs.foldl crcByte 0xFFFF#16

/-- The CRC as sent: least significant byte first. -/
def crcBytes (bs : List Byte) : List Byte := [(crc16 bs).setWidth 8, ((crc16 bs) >>> 8).setWidth 8]

/-! ## Frames (R161, R164, R165, R167) -/

/-- Type bytes of the frames. -/
def FrameType.poll : Byte := 0x00
def FrameType.command : Byte := 0x01
def FrameType.response : Byte := 0x02
def FrameType.dataOut : Byte := 0x03
def FrameType.dataIn : Byte := 0x04

/-- The command of a COMMAND frame whose bytes after the type byte pass the checks of R161: tag, code, parameter length
n at most 60, n parameter bytes, CRC, and nothing else. -/
def parseCommandFrame : List Byte → Option Command
  | tag :: code :: n :: body =>
    if n.toNat ≤ 60 ∧ body.length = n.toNat + 2
        ∧ body.drop n.toNat = crcBytes (tag :: code :: n :: body.take n.toNat) then
      some ⟨tag, code, body.take n.toNat, !paramLengthAllowed code n.toNat⟩
    else none
  | _ => none

/-- Chunk number and data of a DATA_OUT frame whose bytes after the type byte pass the checks of R161. -/
def parseDataOut : List Byte → Option (Byte × List Byte)
  | chunk :: n :: body =>
    if 1 ≤ n.toNat ∧ n.toNat ≤ 64 ∧ body.length = n.toNat + 2
        ∧ body.drop n.toNat = crcBytes (chunk :: n :: body.take n.toNat) then
      some (chunk, body.take n.toNat)
    else none
  | _ => none

/-- The bytes of a COMMAND frame after its type byte, as a port master forms them. -/
def commandFrameBytes (tag code : Byte) (params : List Byte) : List Byte :=
  let covered := tag :: code :: BitVec.ofNat 8 params.length :: params
  covered ++ crcBytes covered

/-- The bytes of a DATA_OUT frame after its type byte, as a port master forms them. -/
def dataOutBytes (chunk : Byte) (data : List Byte) : List Byte :=
  let covered := chunk :: BitVec.ofNat 8 data.length :: data
  covered ++ crcBytes covered

/-- What the part sends in a RESPONSE frame (R164): frame length, tag, command code, status code, result length,
results, CRC. -/
def responseBytes (r : Response) : List Byte :=
  let covered := enc1 (r.results.length + 6) ++ [r.tag, r.code, r.status.code] ++ enc1 r.results.length ++ r.results
  covered ++ crcBytes covered

/-- The part's reply in a DATA_IN frame after its two FFh bytes (R165): chunk number, length, data, CRC. -/
def dataInReply (chunk : Byte) (data : List Byte) : List Byte :=
  let covered := [chunk] ++ enc1 data.length ++ data
  covered ++ crcBytes covered

end Sys2Proof.Machine
end

