-- ==== Sys2Proof/Machine/Flags.lean ====
section
/-! DEFINITION. The conditions the part shows to the outside: slots, ATTN, the ready condition and XREQ, the status
byte (R126, R127, R156, R158, R159, R162). -/

namespace Sys2Proof.Machine

/-! ## Slots (R162) -/

/-- Slots in use: accepted commands not yet answered (waiting or in progress) plus responses not yet read. -/
def PortState.slotsInUse (q : PortState) : Nat :=
  q.link.commands.length + (if q.busy.isSome then 1 else 0) + q.link.responses.length

/-! ## The attention line (R156) -/

/-- The queue holds a record or the lost count is above 0: bit 6 of the status byte. -/
def PortState.attnPending (q : PortState) : Bool := !q.events.isEmpty || decide (0 < q.lost)

/-- ATTN is asserted (driven low). A port held in reset has its attention enable clear, so the line is high (R171). -/
def PortState.attnAsserted (q : PortState) : Bool := q.record.attnEnable && q.attnPending

/-! ## The ready condition and XREQ (R126) -/

/-- Room of an open-ended write: the lesser of 4096 - byte count and the unfilled bytes of the last block plus 64 times
the blocks the record could still obtain. -/
def room (st : Store) (t : Table) (x : Stream) : Nat :=
  match x.record, x.channel with
  | some r, some ch =>
    let entries := (st.record r).chain.length
    let obtainable := min ((t.chan ch).quota - (t.chan ch).blocksInUse) (min st.free.length (64 - entries))
    min (4096 - x.byteCount) ((64 * entries - x.byteCount) + 64 * obtainable)
  | _, _ => 0

/-- The stream is an open-ended write. -/
def Stream.openWrite (x : Stream) : Bool := x.state == .writing && x.mode == some .openEnded

/-- The ready condition, by state and mode. -/
def readyCondition (st : Store) (t : Table) (x : Stream) : Bool :=
  match x.state with
  | .writing =>
    if x.mode = some .openEnded then
      (if x.burst = 0 then decide (0 < room st t x) else decide (x.burst ≤ room st t x))
    else decide (0 < x.remaining.getD 0)
  | .reading => decide (0 < x.remaining.getD 0)
  | .idle => false
  | .readDone => false

/-- XREQ as the controller drives it: asserted while the ready condition holds, paced is clear, the port is not PAUSED
(R134), and no RESUME waits for its chip-select fall (R134). -/
def xreqCondition (st : Store) (t : Table) (q : PortState) : Bool :=
  readyCondition st t q.stream && !q.stream.paced && q.record.state != .paused && !q.stream.awaitFall

/-- Drive XREQ; burst progress is set to 0 each time it goes from deasserted to asserted (R126). -/
def Stream.driveXreq (x : Stream) (asserted : Bool) : Stream :=
  { x with xreq := asserted, progress := if asserted && !x.xreq then 0 else x.progress }

/-- The controller of port p evaluates the ready condition (R126). -/
def evalXreq (p : PortId) (s : State) : State :=
  s.modPort p fun q => q.modStream (·.driveXreq (xreqCondition s.store s.table q))

/-- Whether the length of the free block list, or the blocks in use or quota of the channel, changed (R126). -/
def roomChanged (s0 s : State) (ch : ChanId) : Bool :=
  s0.store.free.length != s.store.free.length || (s0.chan ch).blocksInUse != (s.chan ch).blocksInUse
    || (s0.chan ch).quota != (s.chan ch).quota

/-- A port with an open-ended write evaluates its room when an event changed what it depends on (R126). -/
def watchRoom (s0 : State) (p : PortId) (s : State) : State :=
  match (s.port p).stream.openWrite, (s.port p).stream.channel with
  | true, some ch => if roomChanged s0 s ch then evalXreq p s else s
  | _, _ => s

/-- The end of an event of the table or the store that began in `s0`: open-ended writes evaluate their room (R126). -/
def endEvent (s0 s : State) : State := forPorts (watchRoom s0) s

/-- The end of an event of port p's controller that began in `s0`: the controller evaluates its ready condition, and
every open-ended write its room (R126). -/
def endPortEvent (p : PortId) (s0 s : State) : State := endEvent s0 (evalXreq p s)

/-! ## The link's pins -/

/-- The part leaves SDO in high impedance: chip-select is high, PRST is low or a device reset stands (section 11.5; R158,
R168, R171). -/
def sdoHighImpedance (s : State) (p : PortId) : Bool := !(s.port p).csLow || (s.port p).prstLow || s.phase == .held

/-! ## The status byte (R158, R159, R167) -/

/-- The responses waiting field: 0 to 6, and 7 for seven or eight (R159). -/
def responsesWaiting (n : Nat) : Nat := min n 7

/-- The status byte of a port: READY, ATTN pending, last-frame result, responses waiting, stream ready. -/
def statusByte (s : State) (p : PortId) : Byte :=
  let q := s.port p
  BitVec.ofNat 8 ((if s.phase = .ready then 128 else 0) + (if q.attnPending then 64 else 0)
    + 16 * q.link.result.code + 2 * responsesWaiting q.link.responses.length + (if q.stream.xreq then 1 else 0))

end Sys2Proof.Machine
end

