-- ==== Sys2Proof/Machine/Ops.lean ====
section
/-! DEFINITION. The shared operations of the blocks: the store's requests (chapter 1), the raising of events
(chapter 9), what the channel table does with messages, subscriptions and channels (chapters 2 to 5), and the front
door of a controller's commands (R163). -/

namespace Sys2Proof.Machine

/-! ## The message store: chains and blocks -/

/-- Blocks a payload of n bytes needs (R1). -/
def blocksFor (n : Nat) : Nat := (n + 63) / 64

/-- Pool address of payload byte k, through the chain (R1). -/
def payloadAddr (chain : List BlockId) (k : Nat) : Option Nat := (chain[k / 64]?).map fun b => 64 * b.val + k % 64

/-- Payload byte k (R1). -/
def payloadByte (m : Memory) (chain : List BlockId) (k : Nat) : Byte :=
  match payloadAddr chain k with
  | some a => m.read a
  | none => 0

/-- Payload bytes k to k + n - 1. -/
def payloadBytes (m : Memory) (chain : List BlockId) (k n : Nat) : List Byte :=
  (List.range n).map fun i => payloadByte m chain (k + i)

/-- Store bytes at payload positions k onward (R17). -/
def writePayload (chain : List BlockId) : Nat → List Byte → Memory → Memory
  | _, [], m => m
  | k, b :: bs, m =>
    writePayload chain (k + 1) bs (match payloadAddr chain k with | some a => m.write a b | none => m)

/-- The blocks that payload bytes k to k + n - 1 stand in. -/
def touchedBlocks (chain : List BlockId) (k n : Nat) : List BlockId :=
  (List.range n).filterMap fun i => chain[(k + i) / 64]?

/-- The 64 bytes of a block. -/
def blockContents (m : Memory) (b : BlockId) : List Byte := (List.range 64).map fun i => m.read (64 * b.val + i)

/-- The block's stored check code agrees with its contents (R18). -/
def Store.blockAgrees (st : Store) (b : BlockId) : Bool :=
  match st.codes.find? (fun e => e.1 == b) with
  | none => true
  | some e => e.2 == Config.blockCheck (blockContents st.pool b)

/-! ## The message store: requests -/

/-- How the store refuses a request (R3, R6, R9 to R18). -/
inductive StoreRefusal where
  | nospace
  | limit
  | order
  | length
  deriving DecidableEq, Repr

/-- An allocation request (R5). -/
structure Allocation where
  channel : ChanId
  origin  : PortId
  form    : Form
  length  : Nat
  tag     : Option Half
  ttl     : Option Nat
  deriving DecidableEq, Repr

/-- The lowest-numbered FREE record (R5). -/
def Store.lowestFree (st : Store) : Option RecId := allRecords.find? fun r => (st.record r).state == .free

/-- Allocation (R3, R5): the lowest FREE record becomes FILLING with the first blocks of the free block list. An OPEN
record has length 0 and takes no block. -/
def Store.allocate (st : Store) (a : Allocation) : Except StoreRefusal (RecId × Store) :=
  match st.lowestFree with
  | none => .error .nospace
  | some r =>
    if blocksFor a.length ≤ st.free.length then
      .ok (r, { st.setRecord r
          { state := .filling, channel := some a.channel, origin := some a.origin, form := some a.form,
            length := a.length, chain := st.free.take (blocksFor a.length), tag := a.tag, ttl := a.ttl } with
        free := st.free.drop (blocksFor a.length) })
    else .error .nospace

/-- Extension (R6): an OPEN FILLING record gains one block at the end of its chain. -/
def Store.extend (st : Store) (r : RecId) : Except StoreRefusal Store :=
  let x := st.record r
  if x.state = .filling ∧ x.form = some .openEnded ∧ x.chain.length < 64 then
    match st.free with
    | [] => .error .nospace
    | b :: rest => .ok { st.setRecord r { x with chain := x.chain ++ [b] } with free := rest }
  else .error .limit

/-- Seal (R9): the record takes its sequence and, with a time to live, its deadline. -/
def Store.sealRecord (st : Store) (now : TickCount) (r : RecId) (seq : Half) : Except StoreRefusal Store :=
  let x := st.record r
  if x.state ≠ .filling then .error .order
  else if x.form = some .openEnded ∧ x.length = 0 then .error .length
  else .ok (st.setRecord r { x with
    state := .sealed, sequence := some seq, deadline := x.ttl.map fun t => now + BitVec.ofNat 32 t })

/-- The record releases its chain to the tail of the free block list and becomes FREE (R4). -/
def Store.freeRecord (st : Store) (r : RecId) : Store :=
  { st.setRecord r {} with free := st.free ++ (st.record r).chain }

/-- Abort (R10): a FILLING record becomes FREE; the answer is the number of blocks freed. -/
def Store.abort (st : Store) (r : RecId) : Except StoreRefusal (Nat × Store) :=
  if (st.record r).state = .filling then .ok ((st.record r).chain.length, st.freeRecord r) else .error .order

/-- The answer to a retirement (R11). -/
inductive Retirement where
  | freed (blocks : Nat)
  | withdrawn (holders : PortSet)
  deriving DecidableEq, Repr

/-- Retirement (R11): a SEALED record becomes FREE, or WITHDRAWN when it is held. -/
def Store.retire (st : Store) (r : RecId) : Except StoreRefusal (Retirement × Store) :=
  let x := st.record r
  if x.state ≠ .sealed then .error .order
  else if x.holders = 0 then .ok (.freed x.chain.length, st.freeRecord r)
  else .ok (.withdrawn x.holders, st.setRecord r { x with state := .withdrawn })

/-- A hold placed for a port (R14). -/
def Store.hold (st : Store) (r : RecId) (p : PortId) : Except StoreRefusal Store :=
  let x := st.record r
  if x.state = .sealed ∧ inSet x.holders p = false then
    .ok (st.setRecord r { x with holders := insertPort x.holders p })
  else .error .order

/-- A release (R15): the port leaves the holders; a WITHDRAWN record without holders becomes FREE, with a free notice
that names its channel and the number of blocks freed. The request tells no earlier read of the port from a newer one, so
it removes whichever hold stands (DESIGN CHOICE where a forced close has ended the earlier one, log 44). -/
def Store.releaseHold (st : Store) (r : RecId) (p : PortId) : Store × Option (ChanId × Nat) :=
  let x := st.record r
  if inSet x.holders p then
    let holders := erasePort x.holders p
    if holders = 0 ∧ x.state = .withdrawn then
      (st.freeRecord r, x.channel.map fun ch => (ch, x.chain.length))
    else (st.setRecord r { x with holders := holders }, none)
  else (st, none)

/-- A request to change the fields the store keeps for the table: taken on a SEALED record, and on any other refused with
ORDER, changing nothing (R8, R12). -/
def Store.setFields (st : Store) (r : RecId) (f : Record → Record) : Except StoreRefusal Store :=
  if (st.record r).state = .sealed then .ok (st.setRecord r (f (st.record r))) else .error .order

/-- A write request (R17). -/
def Store.write (st : Store) (p : PortId) (r : RecId) (offset : Nat) (bytes : List Byte) : Except StoreRefusal Store :=
  let x := st.record r
  if x.state ≠ .filling ∨ x.origin ≠ some p then .error .order
  else if 64 * x.chain.length < offset + bytes.length ∨ (x.form = some .counted ∧ x.length < offset + bytes.length) then
    .error .length
  else .ok
    { st.setRecord r { x with
        length := if x.form = some .openEnded then max x.length (offset + bytes.length) else x.length } with
      pool := writePayload x.chain offset bytes st.pool
      codes := st.codes.filter fun e => !(touchedBlocks x.chain offset bytes.length).contains e.1 }

/-- A read request (R18): the bytes, the damage indication, and the store with the damaged flag it set. -/
def Store.read (st : Store) (r : RecId) (offset count : Nat) : Except StoreRefusal ((List Byte × Bool) × Store) :=
  let x := st.record r
  if x.state = .sealed ∨ x.state = .withdrawn then
    let n := min count (x.length - offset)
    let damaged := x.damaged || !(touchedBlocks x.chain offset n).all st.blockAgrees
    .ok ((payloadBytes st.pool x.chain offset n, damaged), st.setRecord r { x with damaged := damaged })
  else .error .order

/-! ## The message store: expiry timers (R20, R21) -/

/-- The record's expiry timer is running and the tick count equals its deadline (R20: the counter and the deadline are
both taken modulo the counter's range). -/
def timerDue (now : TickCount) (x : Record) : Bool := x.state == .sealed && !x.fired && x.deadline == some now

/-- The record's expiry timer fires: the fired flag is set and the expiry notice is sent to the table (R21). -/
def Store.fireTimer (st : Store) (r : RecId) : Store :=
  let x := st.record r
  match x.channel, x.sequence with
  | some ch, some seq =>
    { st.setRecord r { x with fired := true } with notices := st.notices ++ [⟨r, ch, seq⟩] }
  | _, _ => st

/-- Every expiry timer that is due at a tick count fires, in ascending record number (R20, log 7). -/
def Store.fireDue (st : Store) (now : TickCount) : Store :=
  (allRecords.filter fun r => timerDue now (st.record r)).foldl Store.fireTimer st

/-! ## Events (chapter 9) -/

/-- Fold an event into a record of the same kind and subject (R152). -/
def EventRecord.fold (x : EventRecord) (e : Event) : EventRecord :=
  { x with
    count := min 255 (x.count + 1)
    sequence := if e.kind = .arrival then e.sequence else x.sequence
    reason := if e.kind = .peer ∨ e.kind = .streamAborted then e.reason else x.reason }

/-- The record is of the event's kind and subject. -/
def EventRecord.matches (x : EventRecord) (e : Event) : Bool := x.kind == e.kind && x.subject == e.subject

/-- Fold the event into the matching record where it stands; no record matches: `none` (R152). -/
def foldEvent (e : Event) : List EventRecord → Option (List EventRecord)
  | [] => none
  | x :: xs => if x.matches e then some (x.fold e :: xs) else (foldEvent e xs).map (x :: ·)

/-- Queue an accepted event: fold, append, or count as lost (R152, R153). -/
def PortState.queueEvent (q : PortState) (e : Event) : PortState :=
  match foldEvent e q.events with
  | some evs => { q with events := evs }
  | none =>
    if q.events.length < Config.eventCapacity then
      { q with events := q.events ++ [⟨e.kind, e.subject, e.sequence, 1, e.reason⟩] }
    else { q with lost := min 255 (q.lost + 1) }

/-- The port accepts the event: its kind is enabled and the port is PRESENT or PAUSED (R151). -/
def PortState.accepts (q : PortState) (e : Event) : Bool :=
  q.record.enables.getLsbD e.kind.code && (q.record.state == .present || q.record.state == .paused)

/-- The controller takes a raised event (R151). -/
def PortState.takeEvent (q : PortState) (e : Event) : PortState := if q.accepts e then q.queueEvent e else q

/-- An event raised to port p. -/
def raise (p : PortId) (e : Event) (s : State) : State := s.modPort p (·.takeEvent e)

/-- An event raised to each port of a list, in its order. -/
def raiseEach (ps : List PortId) (e : Event) (s : State) : State := ps.foldl (fun s p => raise p e s) s

/-- An event whose subject is a channel. -/
def chanEvent (k : EventKind) (ch : ChanId) : Event := { kind := k, subject := ch.val }

/-- ARRIVAL (R57, R68, R81). -/
def arrivalEvent (ch : ChanId) (seq : Half) : Event := { kind := .arrival, subject := ch.val, sequence := some seq }

/-- STREAM_ABORTED with its reason (R130 to R132). -/
def abortedEvent (ch : ChanId) (why : Reason) : Event :=
  { kind := .streamAborted, subject := ch.val, reason := some why }

/-- PEER to each of the other three ports (R147). -/
def raisePeer (p : PortId) (why : Reason) (s : State) : State :=
  raiseEach (allPorts.filter (· != p)) { kind := .peer, subject := p.val, reason := some why } s

/-! ## Reading the channel table -/

/-- The record lists the port among its pending readers. -/
def Record.lists (x : Record) (p : PortId) : Bool :=
  match x.pending with
  | some ps => inSet ps p
  | none => false

/-- The log messages that list the port, oldest first. -/
def listed (s : State) (ch : ChanId) (p : PortId) : List RecId :=
  (s.chan ch).log.filter fun r => (s.record r).lists p

/-- The lag of a FANOUT subscription (R47). -/
def lag (s : State) (ch : ChanId) (p : PortId) : Nat := (listed s ch p).length

/-- The unclaimed log messages of a QUEUE channel, oldest first (R67). -/
def unclaimed (s : State) (ch : ChanId) : List RecId :=
  (s.chan ch).log.filter fun r => (s.record r).claimant.isNone

/-- The sequence of a record, as a number. -/
def seqOf (s : State) (r : RecId) : Half := (s.record r).sequence.getD 0

/-- A LATEST subscription's changed condition (R78). -/
def changed (s : State) (ch : ChanId) (sub : Sub) : Bool :=
  match (s.chan ch).log.head? with
  | some r => sub.seen != some (seqOf s r)
  | none => false

/-- The target of a FETCH and of an OPEN_FETCH (R105, R119). -/
def fetchTarget (s : State) (ch : ChanId) (p : PortId) : Option RecId :=
  match (s.chan ch).kind with
  | some .fanout => (listed s ch p).head?
  | some .queue => (unclaimed s ch).head?
  | some .latest => (s.chan ch).log.head?
  | none => none

/-- The port has an open stream read on the channel: it is among the holders of a SEALED or WITHDRAWN record that names
the channel (R63, R110). -/
def hasReadOn (s : State) (ch : ChanId) (p : PortId) : Bool :=
  allRecords.any fun r =>
    ((s.record r).state == .sealed || (s.record r).state == .withdrawn)
      && (s.record r).channel == some ch && inSet (s.record r).holders p

/-- The channel that holds a name (R28): the channel is not UNUSED. -/
def channelNamed (s : State) (name : List Byte) : Option ChanId :=
  allChannels.find? fun ch => (s.chan ch).state != .unused && (s.chan ch).name == some name

/-- The blocking bound: lag + reserved at most the limit (R51). -/
def boundHolds (s : State) (ch : ChanId) (p : PortId) (limit : Nat) : Bool :=
  decide (lag s ch p + (s.chan ch).reserved ≤ limit)

/-- The ports whose slot on the channel holds a subscription, ACTIVE or SUSPENDED. -/
def subscribers (c : Channel) : List PortId := allPorts.filter fun p => (c.sub p).isSome

/-! ## Counters -/

/-- The sequence after this one: 65535 is followed by 1 (R94). -/
def nextSequence (n : Half) : Half := if n = 65535#16 then 1#16 else n + 1#16

/-- The dropped count rises by 1, stopping at 65535 (R30). -/
def Channel.countDropped (c : Channel) : Channel := { c with dropped := min 65535 (c.dropped + 1) }

/-- The overrun count rises, stopping at 255 (R54). -/
def Sub.addOverrun (sub : Sub) (n : Nat) : Sub := { sub with overrun := min 255 (sub.overrun + n) }

/-- One overrun counted and OVERRUN raised to the port (R54). -/
def countOverrun (ch : ChanId) (p : PortId) (s : State) : State :=
  raise p (chanEvent .overrun ch) (s.modChan ch fun c => c.modSub p (·.addOverrun 1))

/-! ## Messages leaving a log -/

/-- The table asks the store to change the fields of a record that it keeps for it (R8); the table does nothing more on a
refused answer. -/
def State.changeFields (s : State) (r : RecId) (f : Record → Record) : State :=
  match s.store.setFields r f with
  | .ok st => s.setStore st
  | .error _ => s

/-- Retire a record for its channel, keeping the channel's counts in step (R11, R29). The answer is the holders set
returned by a retirement that withdraws, and the empty set otherwise. -/
def retireRecord (ch : ChanId) (r : RecId) (s : State) : State × PortSet :=
  match s.store.retire r with
  | .ok (.freed n, st) => ((s.setStore st).modChan ch fun c => { c with blocksInUse := c.blocksInUse - n }, 0)
  | .ok (.withdrawn hs, st) => ((s.setStore st).modChan ch fun c => { c with withdrawn := c.withdrawn + 1 }, hs)
  | .error _ => (s, 0)

/-- Remove a message from its log and retire it (R11, R48). -/
def removeMessage (ch : ChanId) (r : RecId) (s : State) : State × PortSet :=
  retireRecord ch r (s.modChan ch fun c => { c with log := c.log.filter (· != r) })

/-- Remove a port from the pending readers of a log record; an empty set removes and retires the record (R48). -/
def dropReader (ch : ChanId) (p : PortId) (r : RecId) (s : State) : State :=
  if (s.record r).state = .sealed ∧ (s.record r).lists p then
    let left := erasePort ((s.record r).pending.getD 0) p
    let s1 := s.changeFields r fun x => { x with pending := some left }
    if left = 0 then (removeMessage ch r s1).1 else s1
  else s

/-- Remove a port from the pending readers of each record of a list, in its order (R48). -/
def dropReaders (ch : ChanId) (p : PortId) (rs : List RecId) (s : State) : State :=
  rs.foldl (fun s r => dropReader ch p r s) s

/-- Remove a port from the pending readers of every log message, oldest first (R59, R61, R63). -/
def dropAllReaders (ch : ChanId) (p : PortId) (s : State) : State := dropReaders ch p (listed s ch p) s

/-- Remove every message from a log, oldest first (R39, R41). -/
def emptyLog (ch : ChanId) (s : State) : State :=
  (s.chan ch).log.foldl (fun s r => (removeMessage ch r s).1) s

/-! ## The end of an event at a channel -/

/-- Whether the port's DEFERRED subscription can be made BLOCKING (R53). -/
def promotable (s : State) (ch : ChanId) (p : PortId) : Bool :=
  match (s.chan ch).sub p with
  | some sub =>
    match sub.fan with
    | some f => f.effective == .deferred && !sub.suspended && s.mark p == .present && boundHolds s ch p f.limit
    | none => false
  | none => false

/-- Set the effective mode of the port's subscription. -/
def Channel.setEffective (c : Channel) (p : PortId) (m : EffMode) : Channel :=
  c.modSub p fun sub => { sub with fan := sub.fan.map fun f => { f with effective := m } }

/-- Promote the port's subscription if it can be (R53). -/
def promotePort (ch : ChanId) (p : PortId) (s : State) : State :=
  if promotable s ch p then s.modChan ch (·.setEffective p .blocking) else s

/-- The DEFERRED subscriptions that a list of ports has on the channel are evaluated (R53). -/
def promotePorts (ch : ChanId) (ps : List PortId) (s : State) : State :=
  if (s.chan ch).kind = some .fanout then ps.foldl (fun s p => promotePort ch p s) s else s

/-- The channel's DEFERRED subscriptions are evaluated (R53). -/
def promote (ch : ChanId) (s : State) : State := promotePorts ch allPorts s

/-- The channel becomes UNUSED: CHANNEL_GONE to its subscribers, then the values of R27 (R38). -/
def becomeUnused (ch : ChanId) (s : State) : State :=
  (raiseEach (subscribers (s.chan ch)) (chanEvent .channelGone ch) s).setChan ch {}

/-- The drain condition (R37). -/
def drainCondition (c : Channel) : Bool :=
  c.state == .draining && c.log.isEmpty && c.reserved == 0 && c.withdrawn == 0

/-- A DRAINING channel whose drain condition holds becomes UNUSED (R37). -/
def evaluateDrain (ch : ChanId) (s : State) : State :=
  if drainCondition (s.chan ch) then becomeUnused ch s else s

/-- The end of an event that may have changed the channel's log or counts (R37, R53). -/
def settle (ch : ChanId) (s : State) : State := evaluateDrain ch (promote ch s)

/-- The end of a port notice, which covers every channel (R25, R37, R53). The manual gives no order for the CHANNEL_GONE
events of several drains that one notice completes: they are raised in ascending channel number, after the notice has
acted on every channel (DESIGN CHOICE, log 35). -/
def settleAll (s : State) : State := forChannels settle s

/-! ## Admission (R84 to R89) -/

/-- The oldest message may be evicted: no holders, and every listed port's subscription LOSSY or DEFERRED (R55). -/
def evictable (s : State) (ch : ChanId) (r : RecId) : Bool :=
  (s.record r).holders == 0
    && allPorts.all fun p => !(s.record r).lists p
        || (s.chan ch).effective p == some .lossy || (s.chan ch).effective p == some .deferred

/-- The listed ports of a record, in ascending number. -/
def listedPorts (x : Record) : List PortId := allPorts.filter x.lists

/-- Count an overrun for each port of a list, in its order. -/
def countOverruns (ch : ChanId) (ps : List PortId) (s : State) : State :=
  ps.foldl (fun s p => countOverrun ch p s) s

/-- Eviction of the oldest message (R55). -/
def evict (ch : ChanId) (r : RecId) (s : State) : State :=
  let s1 := s.modChan ch fun c => { c with log := c.log.filter (· != r) }
  let s2 := countOverruns ch (listedPorts (s.record r)) s1
  let s3 := s2.modChan ch Channel.countDropped
  (retireRecord ch r s3).1

/-- Check 4 with its eviction attempt (R86): the status of a failure, or the number of messages evicted. -/
def checkDepth (ch : ChanId) (s : State) : Except Status (Nat × State) :=
  let c := s.chan ch
  let fits := decide (c.log.length + c.reserved + 1 ≤ c.depth)
  match c.kind with
  | some .fanout =>
    if fits then .ok (0, s)
    else match c.log.head? with
      | some r => if evictable s ch r then .ok (1, evict ch r s) else .error .full
      | none => .error .full
  | some .queue => if fits then .ok (0, s) else .error .full
  | some .latest => .ok (0, s)
  | none => .ok (0, s)

/-- Check 5, the blocking-lag check of one port (R87). -/
def blockingLagFits (s : State) (ch : ChanId) (p : PortId) : Bool :=
  match (s.chan ch).sub p with
  | some sub =>
    match sub.fan with
    | some f => sub.suspended || f.effective != .blocking
        || decide (lag s ch p + (s.chan ch).reserved + 1 ≤ f.limit)
    | none => true
  | none => true

/-- Checks 5 and 6 (R87). -/
def checkBounds (s : State) (ch : ChanId) : Bool :=
  match (s.chan ch).kind with
  | some .fanout => allPorts.all (blockingLagFits s ch)
  | some .queue => true
  | some .latest => decide ((s.chan ch).reserved < Config.latestReservations)
  | none => true

/-- The answer of an admission: the record and the number of messages evicted. -/
structure Admitted where
  record  : RecId
  evicted : Nat
  deriving DecidableEq, Repr

/-- Checks 7 and 8 and the reservation (R88, R89). -/
def reserve (a : Allocation) (evicted : Nat) (s : State) : Except Status Admitted × State :=
  if (s.chan a.channel).quota < (s.chan a.channel).blocksInUse + blocksFor a.length then (.error .quota, s)
  else match s.store.allocate a with
    | .error _ => (.error .nospace, s)
    | .ok (r, st) =>
      (.ok ⟨r, evicted⟩, (s.setStore st).modChan a.channel fun c =>
        { c with reserved := c.reserved + 1, blocksInUse := c.blocksInUse + blocksFor a.length })

/-- Admission: checks 1 to 8 in order (R84 to R89). An eviction made at check 4 stands whatever follows. -/
def admission (a : Allocation) (s : State) : Except Status Admitted × State :=
  let c := s.chan a.channel
  if c.state = .unused then (.error .nochannel, s)
  else if c.state = .draining then (.error .closed, s)
  else if inSet c.posters a.origin = false then (.error .denied, s)
  else if 4096 < a.length then (.error .limit, s)
  else match checkDepth a.channel s with
    | .error e => (.error e, s)
    | .ok (n, s1) => if checkBounds s1 a.channel then reserve a n s1 else (.error .full, s1)

/-! ## Aborts (R92) -/

/-- Abort a FILLING record that names the channel and has the port as origin; otherwise no effect (R10, R29, R92).
The caller ends the channel's event. -/
def abortFilling (ch : ChanId) (p : PortId) (r : RecId) (s : State) : State :=
  if (s.record r).channel = some ch ∧ (s.record r).origin = some p then
    match s.store.abort r with
    | .ok (n, st) => (s.setStore st).modChan ch fun c =>
        { c with reserved := c.reserved - 1, blocksInUse := c.blocksInUse - n }
    | .error _ => s
  else s

/-! ## Sealing (R93, R46, R68, R77) -/

/-- What a seal answers: the sequence taken, the number of ports listed (FANOUT) and whether a value was replaced
(LATEST). -/
structure Sealed where
  sequence : Half
  listed   : Nat
  replaced : Bool
  deriving DecidableEq, Repr

/-- The ARRIVAL rule of a subscription (R57, R68, R81); `edge` is the condition that its kind gives for EDGE. -/
def Notify.calls (n : Notify) (edge : Bool) : Bool :=
  match n with
  | .never => false
  | .each => true
  | .edge => edge

/-- Raise ARRIVAL to the ports of a list whose subscription is ACTIVE and whose notify setting calls for it. -/
def raiseArrivals (ch : ChanId) (seq : Half) (ps : List PortId) (edge : PortId → Bool) (s : State) : State :=
  raiseEach (ps.filter fun p =>
    match (s.chan ch).sub p with
    | some sub => !sub.suspended && sub.notify.calls (edge p)
    | none => false) (arrivalEvent ch seq) s

/-- A lossy skip for one port: an ACTIVE subscription whose lag exceeds its limit drops its oldest listed message and
counts an overrun (R50). -/
def lossySkip (ch : ChanId) (p : PortId) (s : State) : State :=
  match (s.chan ch).active p, (s.chan ch).fanSub p, (listed s ch p).head? with
  | true, some f, some r =>
    if f.limit < lag s ch p then countOverrun ch p (dropReader ch p r s) else s
  | _, _, _ => s

/-- The FANOUT steps of a seal (R46). `before` is the state before the seal, for the EDGE condition (R57). -/
def deliverFanout (before : State) (ch : ChanId) (r : RecId) (seq : Half) (s : State) : State × Nat :=
  let readers := portsWhere (s.chan ch).active
  let s1 := s.changeFields r fun x => { x with pending := some readers }
  if readers = 0 then ((removeMessage ch r s1).1, 0)
  else
    let s2 := promote ch (forPorts (lossySkip ch) s1)
    (raiseArrivals ch seq (members readers) (fun p => lag before ch p == 0) s2, (members readers).length)

/-- The QUEUE steps of a seal (R68): the record enters unclaimed with redeliveries 0. -/
def deliverQueue (before : State) (ch : ChanId) (seq : Half) (s : State) : State :=
  raiseArrivals ch seq allPorts (fun _ => (unclaimed before ch).isEmpty) s

/-- The LATEST steps of a seal (R77, R78, R81): the earlier value is replaced, a seen sequence equal to the new one
becomes absent, ARRIVAL is raised. -/
def deliverLatest (before : State) (ch : ChanId) (r : RecId) (seq : Half) (s : State) : State × Bool :=
  let earlier := (s.chan ch).log.filter (· != r)
  let s1 := earlier.foldl (fun s o => (removeMessage ch o s).1) s
  let s2 := forPorts (fun p s => s.modChan ch fun c =>
    c.modSub p fun sub => if sub.seen = some seq then { sub with seen := none } else sub) s1
  let clear := fun p => match (before.chan ch).sub p with
    | some sub => !changed before ch sub
    | none => false
  (raiseArrivals ch seq allPorts clear s2, !earlier.isEmpty)

/-- A seal taken by the table, steps 1 to 5 (R93). A record that is not the port's FILLING record on the channel is
answered with no effect. The caller ends the channel's event. -/
def sealMessage (ch : ChanId) (p : PortId) (r : RecId) (s : State) : Option Sealed × State :=
  if (s.record r).channel = some ch ∧ (s.record r).origin = some p then
    let seq := (s.chan ch).nextSeq
    match s.store.sealRecord s.tick r seq with
    | .error _ => (none, s)
    | .ok st =>
      let s1 := (s.setStore st).modChan ch fun c =>
        { c with log := c.log ++ [r], nextSeq := nextSequence seq, reserved := c.reserved - 1, posted := c.posted + 1#16 }
      match (s.chan ch).kind with
      | some .fanout => let (s2, n) := deliverFanout s ch r seq s1; (some ⟨seq, n, false⟩, s2)
      | some .queue => (some ⟨seq, 0, false⟩, deliverQueue s ch seq s1)
      | some .latest => let (s2, b) := deliverLatest s ch r seq s1; (some ⟨seq, 0, b⟩, s2)
      | none => (some ⟨seq, 0, false⟩, s1)
  else (none, s)

/-! ## Claims (R72, R73) -/

/-- Abandon a claim on a log record: unclaimed with redeliveries raised, or discarded at the third abandonment, with
DISCARDED raised to its origin (R72, R73). R59 and R61 raise no event to the port that departs, R73 raises this one even to
the abandoning port: a port that has attached again before its lapse or reset notice is taken is told (DEDUCED, log 42).
The caller ends the channel's event. -/
def abandonClaim (ch : ChanId) (r : RecId) (s : State) : State :=
  let x := s.record r
  if x.redeliveries < 2 then
    s.changeFields r fun x => { x with claimant := none, redeliveries := x.redeliveries + 1 }
  else
    let s1 := s.changeFields r fun x => { x with claimant := none }
    let s2 := s1.modChan ch fun c => Channel.countDropped { c with log := c.log.filter (· != r) }
    let s3 := (retireRecord ch r s2).1
    match x.origin with
    | some o => raise o (chanEvent .discarded ch) s3
    | none => s3

/-- Abandon every claim of the port on a channel's log (R59, R61, R72). -/
def abandonClaims (ch : ChanId) (p : PortId) (s : State) : State :=
  if (s.chan ch).kind = some .queue then
    ((s.chan ch).log.filter fun r => (s.record r).claimant == some p).foldl (fun s r => abandonClaim ch r s) s
  else s

/-! ## Releases (R15) -/

/-- The store takes a release and the table its free notice, if any (R15, R29): the channel whose counts it lowered. -/
def takeRelease (p : PortId) (r : RecId) (s : State) : State × Option ChanId :=
  match s.store.releaseHold r p with
  | (st, some (ch, n)) =>
    ((s.setStore st).modChan ch fun c =>
      { c with blocksInUse := c.blocksInUse - n, withdrawn := c.withdrawn - 1 }, some ch)
  | (st, none) => (s.setStore st, none)

/-- A release with the end of its event at the channel (R15, R37, R53). -/
def releaseRecord (p : PortId) (r : RecId) (s : State) : State :=
  match takeRelease p r s with
  | (s1, some ch) => settle ch s1
  | (s1, none) => s1

/-! ## The stream context -/

/-- The context becomes IDLE: the fields that IDLE has not are absent (R117). -/
def Stream.toIdle (x : Stream) : Stream :=
  { x with state := .idle, direction := none, mode := none, channel := none, record := none, awaitFall := false }

/-- Put a request or a notice behind what the port has already handed to the table (R25). -/
def sendTable (p : PortId) (m : TableMsg) (s : State) : State := s.modPort p fun q => { q with toTable := q.toTable ++ [m] }

/-- Hand a release to the store (R15). -/
def sendRelease (p : PortId) (r : RecId) (s : State) : State := s.modPort p fun q => { q with releases := q.releases ++ [r] }

/-- What a stream that ends without STREAM_END leaves to do (R130, R131): an abort request for a written record; a
release for a held one and, where `abandon` says so, an abandonment request on a QUEUE channel. -/
def sendCleanup (p : PortId) (abandon : Bool) (s : State) : State :=
  let x := (s.port p).stream
  match x.record, x.channel with
  | some r, some ch =>
    match x.state with
    | .writing => sendTable p (.abort r ch) s
    | .reading | .readDone =>
      let s1 := if abandon && (s.chan ch).kind == some .queue then sendTable p (.abandon r ch) s else s
      sendRelease p r s1
    | .idle => s
  | _, _ => s

/-- An abort request for each live entry of the staging list, in staging order, and the list emptied (R102). -/
def dropStaging (p : PortId) (s : State) : State :=
  ((s.port p).staging.foldl (fun s e =>
    match e with
    | .live r ch => sendTable p (.abort r ch) s
    | .void _ => s) s).modPort p fun q => { q with staging := [] }

/-! ## Answers (R163) -/

/-- The answer joins the tail of the response queue. -/
def answer (p : PortId) (c : Command) (status : Status) (results : List Byte) (s : State) : State :=
  s.modPort p fun q => q.modLink fun l =>
    { l with responses := l.responses ++ [⟨c.tag, c.code, status, results⟩] }

/-- Every command waiting in the command queue is answered with a status (R148). -/
def answerWaiting (p : PortId) (status : Status) (s : State) : State :=
  s.modPort p fun q => q.modLink fun l =>
    { l with responses := l.responses ++ l.commands.map (fun c => ⟨c.tag, c.code, status, []⟩), commands := [] }

/-! ## The front door of a controller's commands (R137, R163) -/

/-- The status with which a presence state refuses a command code, if it does (R137). -/
def stateRefuses (st : Presence) (code : Byte) : Option Status :=
  match st with
  | .present => none
  | .detached => if code = Code.attach ∨ code = Code.portQuery then none else some .detached
  | .paused => if code = Code.resume ∨ code = Code.eventRead ∨ code = Code.portQuery then none else some .paused
  | .lapsed => if code = Code.attach ∨ code = Code.eventRead ∨ code = Code.portQuery then none else some .lapsed

/-- The command the controller of port p takes next: the head of its command queue, when the part runs and no earlier
command is in progress (R163). -/
def nextCommand (s : State) (p : PortId) : Option Command :=
  if s.running && (s.port p).busy.isNone then (s.port p).link.commands.head? else none

/-- The head command leaves the command queue. -/
def popCommand (p : PortId) (s : State) : State :=
  s.modPort p fun q => q.modLink fun l => { l with commands := l.commands.tail }

/-- Checks 2 to 4 of R163: the answer of the first that fails, or the command's parameters. `own` makes the
controller's own checks. -/
def checkCommand {α : Type} (parse : List Byte → Option α) (own : PortState → α → Option Status) (q : PortState)
    (c : Command) : Except Status α :=
  match stateRefuses q.record.state c.code with
  | some st => .error st
  | none =>
    match parse c.params with
    | none => .error .limit
    | some a =>
      match own q a with
      | some st => .error st
      | none => .ok a

/-- A controller takes the command at the head of its queue, if it is one of the row's (R163). `act` forms the answer
and makes the effect of a command that passes its checks. When the head command is not one of the row's, the event does
not occur and nothing changes (log 1). -/
def takeCommand {α : Type} (p : PortId) (row : Command → Bool) (parse : List Byte → Option α)
    (own : PortState → α → Option Status) (act : Command → α → State → State) (s : State) : State :=
  match nextCommand s p with
  | none => s
  | some c =>
    if !c.malformed && row c then
      endPortEvent p s (match checkCommand parse own (s.port p) c with
        | .error st => answer p c st [] (popCommand p s)
        | .ok a => act c a (popCommand p s))
    else s

/-- No check of the controller's own. -/
def noCheck {α : Type} (_ : PortState) (_ : α) : Option Status := none

/-- The row takes every command of a code. -/
def rowOf (code : Byte) (c : Command) : Bool := c.code == code

/-! ## Commands that need the table -/

/-- The table's answer to a request: status, results, and what the request made for the controller. -/
structure TableAnswer where
  status  : Status
  results : List Byte := []
  made    : Made := .nothing
  deriving DecidableEq, Repr

/-- A port reset kept the request at the head of the path to the table (R146). -/
def orphanRequest (s : State) (p : PortId) : Option Request :=
  match (s.port p).toTable with
  | .request q :: _ => some q
  | _ => none

/-- The head of the port's path to the table is taken. -/
def popTable (p : PortId) (s : State) : State := s.modPort p fun q => { q with toTable := q.toTable.tail }

/-- The table takes a request whose controller has been reset: its answer is on its way back (R146). A COMMIT or DISCARD
finds the staging list that the port reset has emptied (DEDUCED, log 37). -/
def takeOrphan (p : PortId) (event : State → TableAnswer × State) (s : State) : State :=
  let r := event (popTable p s)
  endEvent s (r.2.modPort p fun q => { q with returns := q.returns ++ [r.1.made] })

/-- A row whose command needs the table (R163). Checks 2 to 4 are the controller's own: a command at the head of the queue
that fails one is answered at once, whatever waits on the path to the table. One that passes them has its effect `act`
when nothing the port handed over earlier waits there (R25). Where the row has no such command to take, it is the row of a
request that a port reset left at the head of that path, if there is one (`orphan`; R146). The manual orders the two
nowhere: a command that checks 2 to 4 settle is answered before a request of the same row is taken (DESIGN CHOICE,
log 40). -/
def commandAtTable {α : Type} (p : PortId) (row : Command → Bool) (parse : List Byte → Option α)
    (own : PortState → α → Option Status) (act : Command → α → State → State) (orphan : State → State) (s : State) :
    State :=
  match nextCommand s p with
  | none => orphan s
  | some c =>
    if c.malformed || !row c then orphan s
    else match checkCommand parse own (s.port p) c with
      | .error st => endPortEvent p s (answer p c st [] (popCommand p s))
      | .ok a => if (s.port p).toTable.isEmpty then endPortEvent p s (act c a (popCommand p s)) else orphan s

/-- The table takes a command that a port reset left at the head of the path, if it is one of the row's (R146). -/
def takeOrphanCommand {α : Type} (p : PortId) (row : Command → Bool) (parse : List Byte → Option α)
    (event : α → State → TableAnswer × State) (s : State) : State :=
  match orphanRequest s p with
  | some (.command c) =>
    match row c, parse c.params with
    | true, some a => takeOrphan p (event a) s
    | _, _ => s
  | _ => s

/-- A command that needs the table (R163 check 5): the controller's checks, the table's event `event`, then `finish`
with the table's answer. -/
def tableCommand {α : Type} (p : PortId) (row : Command → Bool) (parse : List Byte → Option α)
    (own : PortState → α → Option Status) (event : α → State → TableAnswer × State)
    (finish : Command → α → TableAnswer → State → State) (s : State) : State :=
  commandAtTable p row parse own (fun c a s => finish c a (event a s).1 (event a s).2)
    (takeOrphanCommand p row parse event) s

/-- A request that names a channel (R26, R53): NOCHANNEL on an UNUSED channel, and at the end of the event the channel's
DEFERRED subscriptions are evaluated, whatever the answer. -/
def withChannel (ch : ChanId) (body : State → TableAnswer × State) (s : State) : TableAnswer × State :=
  if (s.chan ch).state = .unused then ({ status := .nochannel }, s)
  else ((body s).1, promote ch (body s).2)

/-- A request that only a port of the admin set may make (R31). -/
def withAdmin (p : PortId) (ch : ChanId) (body : State → TableAnswer × State) (s : State) : TableAnswer × State :=
  withChannel ch (fun s => if inSet (s.chan ch).admins p then body s else ({ status := .denied }, s)) s

/-- The controller passes the table's answer on as it is. -/
def finishPlain {α : Type} (p : PortId) (c : Command) (_ : α) (a : TableAnswer) (s : State) : State :=
  answer p c a.status a.results s

end Sys2Proof.Machine
end

