-- ==== Sys2Proof/Machine/Subscriptions.lean ====
section
/-! DEFINITION. The subscription commands (R62 to R65). -/

namespace Sys2Proof.Machine

/-- The effective mode a requested mode and the blocking bound give (R51, R52). -/
def effectiveFor (m : ReqMode) (bound : Bool) : EffMode :=
  match m with
  | .lossy => .lossy
  | .blocking => if bound then .blocking else .deferred

/-! ## SUBSCRIBE (R62) -/

/-- The subscription a SUBSCRIBE makes: its lag is 0. -/
def newSub (s : State) (a : SubscribeParams) : Sub :=
  let c := s.chan a.channel
  { suspended := false
    fan := if c.kind = some .fanout then
        some ⟨a.mode, effectiveFor a.mode (decide (c.reserved ≤ a.limit)), a.limit⟩ else none
    notify := a.notify
    seen := if c.kind = some .latest then c.log.head?.map (seqOf s) else none }

/-- The effective mode as a result, on a FANOUT channel only. -/
def effectiveResult (c : Channel) (p : PortId) : List Byte :=
  match c.effective p with
  | some m => enc1 m.code
  | none => []

def subscribeEvent (p : PortId) (a : SubscribeParams) : State → TableAnswer × State :=
  withChannel a.channel fun s =>
    if ((s.chan a.channel).sub p).isSome then ({ status := .exists_ }, s)
    else if (s.chan a.channel).state = .draining then ({ status := .closed }, s)
    else
      let s1 := s.modChan a.channel fun c => c.setSub p (some (newSub s a))
      let c := s1.chan a.channel
      ({ status := .ok,
         results := enc1 (c.kind.elim 0 Kind.code) ++ enc2 c.nextSeq.toNat ++ effectiveResult c p }, s1)

def execSubscribe (p : PortId) (s : State) : Result :=
  .next (tableCommand p (rowOf Code.subscribe) parseSubscribe noCheck (subscribeEvent p) (finishPlain p) s)

/-! ## UNSUBSCRIBE (R63) -/

def unsubscribeEvent (p : PortId) (ch : ChanId) : State → TableAnswer × State :=
  withChannel ch fun s =>
    if ((s.chan ch).sub p).isNone then ({ status := .nosub }, s)
    else if hasReadOn s ch p then ({ status := .busy }, s)
    else if (s.chan ch).kind = some .fanout then
      ({ status := .ok, results := enc1 (lag s ch p) },
        evaluateDrain ch ((dropAllReaders ch p s).modChan ch fun c => c.setSub p none))
    else ({ status := .ok }, s.modChan ch fun c => c.setSub p none)

def execUnsubscribe (p : PortId) (s : State) : Result :=
  .next (tableCommand p (rowOf Code.unsubscribe) parseChannel noCheck (unsubscribeEvent p) (finishPlain p) s)

/-! ## SUB_MODIFY (R64) -/

/-- The present settings replace the stored ones. -/
def replaceSettings (a : SubModifyParams) (sub : Sub) : Sub :=
  { sub with
    fan := sub.fan.map fun f => { f with requested := a.mode.getD f.requested, limit := a.limit.getD f.limit }
    notify := a.notify.getD sub.notify }

/-- The effective mode is set again under R52. -/
def resetEffective (ch : ChanId) (p : PortId) (s : State) : State :=
  match (s.chan ch).fanSub p with
  | some f => s.modChan ch (·.setEffective p (effectiveFor f.requested (boundHolds s ch p f.limit)))
  | none => s

/-- Drop the port from one message, counting an overrun (R54, R64). -/
def skipCounted (ch : ChanId) (p : PortId) (r : RecId) (s : State) : State := countOverrun ch p (dropReader ch p r s)

/-- Drop the port from its oldest listed messages until the lag equals the limit (R64). -/
def trimToLimit (ch : ChanId) (p : PortId) (s : State) : State :=
  match (s.chan ch).fanSub p with
  | some f =>
    if f.effective = .blocking then s
    else ((listed s ch p).take (lag s ch p - f.limit)).foldl (fun s r => skipCounted ch p r s) s
  | none => s

/-- No setting is present. -/
def SubModifyParams.isEmpty (a : SubModifyParams) : Bool := a.mode.isNone && a.limit.isNone && a.notify.isNone

/-- The re-evaluation that settings bring (R64). A subscription that R52 makes or keeps DEFERRED here is not promoted at the
end of this event: the demoting condition prevents it (R53). The other ports' subscriptions are evaluated. -/
def reevaluate (ch : ChanId) (p : PortId) (s : State) : State :=
  let s1 := resetEffective ch p s
  let s2 := trimToLimit ch p s1
  if (s1.chan ch).effective p = some .deferred then promotePorts ch (allPorts.filter (· != p)) s2 else promote ch s2

/-- SUB_MODIFY on a channel that is not UNUSED (R64). A refusal, and a command with no setting, still end with the
evaluation of R53. -/
def subModifyBody (p : PortId) (a : SubModifyParams) (s : State) : TableAnswer × State :=
  let ch := a.channel
  if ((s.chan ch).sub p).isNone then ({ status := .nosub }, promote ch s)
  else if (s.chan ch).kind ≠ some .fanout ∧ (a.mode.isSome ∨ a.limit.isSome) then ({ status := .kind }, promote ch s)
  else
    let s1 := if a.isEmpty then promote ch s
      else reevaluate ch p (s.modChan ch fun c => c.modSub p (replaceSettings a))
    let results := if (s.chan ch).kind = some .fanout then
        effectiveResult (s1.chan ch) p ++ enc1 (lag s1 ch p) else []
    ({ status := .ok, results := results }, evaluateDrain ch s1)

def subModifyEvent (p : PortId) (a : SubModifyParams) (s : State) : TableAnswer × State :=
  if (s.chan a.channel).state = .unused then ({ status := .nochannel }, s) else subModifyBody p a s

def execSubModify (p : PortId) (s : State) : Result :=
  .next (tableCommand p (rowOf Code.subModify) parseSubModify noCheck (subModifyEvent p) (finishPlain p) s)

/-! ## SUB_QUERY (R65) -/

/-- Sequence of the first message of a list, or the channel's next sequence (R65, R111). -/
def nextSequenceOf (s : State) (ch : ChanId) (rs : List RecId) : Half :=
  match rs.head? with
  | some r => seqOf s r
  | none => (s.chan ch).nextSeq

/-- Lag, as SUB_QUERY reports it: absent on LATEST. -/
def queryLag (s : State) (ch : ChanId) (p : PortId) : Option Nat :=
  match (s.chan ch).kind with
  | some .fanout => some (lag s ch p)
  | some .queue => some (unclaimed s ch).length
  | some .latest => none
  | none => none

/-- Next sequence, as SUB_QUERY reports it: absent on LATEST. -/
def queryNext (s : State) (ch : ChanId) (p : PortId) : Option Nat :=
  match (s.chan ch).kind with
  | some .fanout => some (nextSequenceOf s ch (listed s ch p)).toNat
  | some .queue => some (nextSequenceOf s ch (unclaimed s ch)).toNat
  | some .latest => none
  | none => none

/-- Changed, as SUB_QUERY reports it: LATEST only. -/
def queryChanged (s : State) (ch : ChanId) (sub : Sub) : Option Nat :=
  if (s.chan ch).kind = some .latest then some (if changed s ch sub then 1 else 0) else none

def subQueryResults (s : State) (ch : ChanId) (p : PortId) (sub : Sub) : List Byte :=
  enc1 (if sub.suspended then 1 else 0)
    ++ encOpt1FF (sub.fan.map fun f => f.requested.code) ++ encOpt1FF (sub.fan.map fun f => f.effective.code)
    ++ enc1 ((sub.fan.map FanSub.limit).getD 0) ++ enc1 sub.notify.code
    ++ encOpt1FF (queryLag s ch p) ++ encOpt2 (queryNext s ch p) ++ encOpt1FF (queryChanged s ch sub)
    ++ encOpt2 (sub.seen.map BitVec.toNat) ++ enc1 sub.overrun ++ encFlag sub.resumed

def subQueryEvent (p : PortId) (a : SubQueryParams) : State → TableAnswer × State :=
  withChannel a.channel fun s =>
    match (s.chan a.channel).sub p with
    | none => ({ status := .nosub }, s)
    | some sub =>
      ({ status := .ok, results := subQueryResults s a.channel p sub },
        s.modChan a.channel fun c => c.modSub p fun x =>
          { x with resumed := false, overrun := if a.clear then 0 else x.overrun })

def execSubQuery (p : PortId) (s : State) : Result :=
  .next (tableCommand p (rowOf Code.subQuery) parseSubQuery noCheck (subQueryEvent p) (finishPlain p) s)

end Sys2Proof.Machine
end

