-- ==== Sys2Proof/Machine/Fetching.lean ====
section
/-! DEFINITION. FETCH and SKIP (chapter 6: R103 to R111). -/

namespace Sys2Proof.Machine

/-! ## FETCH (R104 to R109) -/

/-- Checks 2 to 5 of a fetch request (R104): the answer of the first that fails, or the target. -/
def fetchCheck (s : State) (p : PortId) (a : FetchParams) : Except Status RecId :=
  let c := s.chan a.channel
  if (c.kind = some .fanout ∨ (c.kind = some .latest ∧ a.consume)) ∧ c.active p = false then .error .nosub
  else if c.kind = some .fanout ∧ a.consume ∧ hasReadOn s a.channel p then .error .busy
  else match fetchTarget s a.channel p with
    | none => .error .empty
    | some r => if a.offset < (s.record r).length then .ok r else .error .limit

/-- The consume of a FETCH, as the channel's kind provides (R109). -/
def consumeTarget (ch : ChanId) (p : PortId) (r : RecId) (s : State) : State :=
  match (s.chan ch).kind with
  | some .fanout => dropReader ch p r s
  | some .queue => (removeMessage ch r s).1
  | some .latest => s.modChan ch fun c => c.modSub p fun sub => { sub with seen := (s.record r).sequence }
  | none => s

/-- The `remaining` result of a FETCH: lag, unclaimed count, or the changed condition (R107). -/
def fetchRemaining (s : State) (ch : ChanId) (p : PortId) : Nat :=
  match (s.chan ch).kind with
  | some .fanout => lag s ch p
  | some .queue => (unclaimed s ch).length
  | some .latest =>
    match (s.chan ch).sub p with
    | some sub => if changed s ch sub then 1 else 0
    | none => 0
  | none => 0

/-- Redeliveries are reported on QUEUE channels, 0 on the others (R107, R119). -/
def reportedRedeliveries (s : State) (ch : ChanId) (r : RecId) : Nat :=
  if (s.chan ch).kind = some .queue then (s.record r).redeliveries else 0

/-- FETCH results (R107, R167). -/
def fetchResults (s : State) (ch : ChanId) (r : RecId) (damaged : Bool) (remaining : Nat) (data : List Byte) :
    List Byte :=
  let x := s.record r
  enc2 (seqOf s r).toNat ++ enc2 x.length ++ enc1 ((if x.tag.isSome then 1 else 0) + (if damaged then 2 else 0))
    ++ enc2 ((x.tag.map BitVec.toNat).getD 0) ++ enc1 (reportedRedeliveries s ch r) ++ enc1 remaining
    ++ enc1 data.length ++ data

/-- FETCH at the table: checks, read, and with CONSUME the consume (R104 to R109). -/
def fetchEvent (p : PortId) (a : FetchParams) : State → TableAnswer × State :=
  withChannel a.channel fun s =>
    match fetchCheck s p a with
    | .error e => ({ status := e }, s)
    | .ok r =>
      match s.store.read r a.offset a.count with
      | .error _ => ({ status := .order }, s)
      | .ok ((data, damaged), st) =>
        let s1 := s.setStore st
        let s2 := if a.consume then consumeTarget a.channel p r s1 else s1
        ({ status := .ok,
           results := fetchResults s a.channel r damaged (fetchRemaining s2 a.channel p) data },
          if a.consume then evaluateDrain a.channel s2 else s2)

/-- The mode byte of a FETCH command says CONSUME. -/
def isConsume (c : Command) : Bool := c.params[1]? == some 1

/-- The FETCH_PEEK row: a FETCH whose mode is not CONSUME (log 14). -/
def fetchPeekRow (c : Command) : Bool := c.code == Code.fetch && !isConsume c

/-- The FETCH_CONSUME row. -/
def fetchConsumeRow (c : Command) : Bool := c.code == Code.fetch && isConsume c

def execFetchPeek (p : PortId) (s : State) : Result :=
  .next (tableCommand p fetchPeekRow parseFetch noCheck (fetchEvent p) (finishPlain p) s)

def execFetchConsume (p : PortId) (s : State) : Result :=
  .next (tableCommand p fetchConsumeRow parseFetch noCheck (fetchEvent p) (finishPlain p) s)

/-! ## SKIP (R111) -/

def skipEvent (p : PortId) (a : SkipParams) : State → TableAnswer × State :=
  withChannel a.channel fun s =>
    let ch := a.channel
    if (s.chan ch).kind ≠ some .fanout then ({ status := .kind }, s)
    else if (s.chan ch).active p = false then ({ status := .nosub }, s)
    else if hasReadOn s ch p then ({ status := .busy }, s)
    else
      let gone := (listed s ch p).take a.count
      let s1 := dropReaders ch p gone s
      ({ status := .ok,
         results := enc1 gone.length ++ enc1 (lag s1 ch p)
           ++ enc2 (nextSequenceOf s1 ch (listed s1 ch p)).toNat }, evaluateDrain ch s1)

def execSkip (p : PortId) (s : State) : Result :=
  .next (tableCommand p (rowOf Code.skip) parseSkip noCheck (skipEvent p) (finishPlain p) s)

end Sys2Proof.Machine
end

