-- ==== Sys2Proof/Machine/Presence.lean ====
section
/-! DEFINITION. Commands of the port presence chapter and of the events chapter (R139 to R149, R154, R155), and the
lapse (R144). -/

namespace Sys2Proof.Machine

/-! ## ATTACH (R139) -/

/-- ATTACH from PRESENT is answered ORDER. -/
def attachCheck (q : PortState) (_ : AttachParams) : Option Status :=
  if q.record.state = .present then some .order else none

/-- The controller's part of ATTACH: the port becomes PRESENT and the attach notice is handed to the table. The answer
waits for the notice. -/
def attachAct (p : PortId) (c : Command) (a : AttachParams) (s : State) : State :=
  sendTable p (.attachNotice true) (s.modPort p fun q =>
    { q with
      record := { state := .present, period := some a.period, debt := 0, periodTimer := some a.period,
                  enables := a.enables, attnEnable := a.attnEnable }
      busy := some c })

def execAttach (p : PortId) (s : State) : Result :=
  .next (takeCommand p (rowOf Code.attach) parseAttach attachCheck (attachAct p) s)

/-! ## DETACH (R145) -/

/-- Steps 1 to 4 of DETACH: stream and staging list end, the port is DETACHED, the detach notice is handed to the table.
Steps 5 and 6 follow when the table has taken the notice. -/
def detachAct (p : PortId) (c : Command) (_ : Unit) (s : State) : State :=
  let s1 := dropStaging p (sendCleanup p false s)
  sendTable p (.detachNotice true) (s1.modPort p fun q =>
    { q.modRecord (fun x => { x with state := .detached, periodTimer := none }) with stream := {}, busy := some c })

def execDetach (p : PortId) (s : State) : Result :=
  .next (takeCommand p (rowOf Code.detach) parseNone noCheck (detachAct p) s)

/-! ## CHECKIN (R140) -/

/-- The debt after a check-in, and CREDIT_FULL. -/
def checkinDebt (debt : Int) : Int × Bool := if debt ≤ -8 then (debt, true) else (debt - 1, false)

def checkinAct (p : PortId) (c : Command) (_ : Unit) (s : State) : State :=
  let d := checkinDebt (s.port p).record.debt
  answer p c .ok (encDebt d.1 ++ encFlag d.2) (s.modPort p fun q =>
    q.modRecord fun x => { x with debt := d.1, checkinOwed := false })

def execCheckin (p : PortId) (s : State) : Result :=
  .next (takeCommand p (rowOf Code.checkin) parseNone noCheck (checkinAct p) s)

/-! ## PAUSE (R142) -/

/-- PAUSE with a check-in owed is answered ORDER. -/
def pauseCheck (q : PortState) (_ : Nat) : Option Status := if q.record.checkinOwed then some .order else none

def pauseAct (p : PortId) (c : Command) (limit : Nat) (s : State) : State :=
  answer p c .ok (encDebt (s.port p).record.debt ++ enc2 limit)
    (sendTable p .pauseNotice (s.modPort p fun q => q.modRecord fun x =>
      { x with state := .paused, periodTimer := none, pauseLimit := some limit, pauseTimer := some limit }))

def execPause (p : PortId) (s : State) : Result :=
  .next (takeCommand p (rowOf Code.pause) parsePause pauseCheck (pauseAct p) s)

/-! ## RESUME (R143) -/

/-- RESUME from PRESENT is answered ORDER. -/
def resumeCheck (q : PortState) (_ : Unit) : Option Status := if q.record.state = .present then some .order else none

def resumeAct (p : PortId) (c : Command) (_ : Unit) (s : State) : State :=
  answer p c .ok (encDebt (s.port p).record.debt ++ enc2 ((s.port p).record.pauseTimer.getD 0))
    (sendTable p .resumeNotice (s.modPort p fun q =>
      (q.modRecord fun x =>
        { x with state := .present, pauseTimer := none, pauseLimit := none, checkinOwed := true,
                 periodTimer := x.period.map Int.ofNat }).modStream fun x => { x with awaitFall := true }))

def execResume (p : PortId) (s : State) : Result :=
  .next (takeCommand p (rowOf Code.resume) parseNone resumeCheck (resumeAct p) s)

/-! ## PORT_QUERY (R149) -/

def portQueryResults (p : PortId) (q : PortState) : List Byte :=
  [Config.familyCode, Config.variantCode, Config.revisionCode] ++ enc1 p.val
    ++ enc1 q.record.state.code ++ encOpt2 q.record.period ++ encDebt q.record.debt
    ++ encOpt2 (q.record.periodTimer.map Int.toNat) ++ encOpt2 q.record.pauseLimit ++ encOpt2 q.record.pauseTimer
    ++ encFlag q.record.checkinOwed ++ encKinds q.record.enables ++ encFlag q.record.attnEnable
    ++ enc1 (Config.slots - q.slotsInUse) ++ enc1 q.staging.length ++ enc1 q.stream.state.code
    ++ enc1 q.events.length ++ enc1 q.lost

/-- The free slots do not count the one the query holds: it is still counted in use in the state the controller took it
in, and its place passes to its response. -/
def portQueryAct (p : PortId) (before : State) (c : Command) (_ : Unit) (s : State) : State :=
  answer p c .ok (portQueryResults p (before.port p)) s

def execPortQuery (p : PortId) (s : State) : Result :=
  .next (takeCommand p (rowOf Code.portQuery) parseNone noCheck (portQueryAct p s) s)

/-! ## EVENT_ENABLE (R155) -/

def eventEnableAct (p : PortId) (c : Command) (a : EnableParams) (s : State) : State :=
  answer p c .ok (encKinds (s.port p).record.enables ++ encFlag (s.port p).record.attnEnable)
    (s.modPort p fun q => q.modRecord fun x => { x with enables := a.enables, attnEnable := a.attnEnable })

def execEventEnable (p : PortId) (s : State) : Result :=
  .next (takeCommand p (rowOf Code.eventEnable) parseEventEnable noCheck (eventEnableAct p) s)

/-! ## EVENT_READ (R154) -/

/-- EVENT_READ with nothing queued and nothing lost is answered EMPTY. -/
def eventReadCheck (q : PortState) (_ : Unit) : Option Status := if q.attnPending then none else some .empty

/-- One event record in an EVENT_READ response (R167). -/
def encEventRecord (x : EventRecord) : List Byte :=
  enc1 x.kind.code ++ enc1 x.subject ++ enc1 x.count ++ encOpt2 (x.sequence.map BitVec.toNat)
    ++ encOpt1FF (x.reason.map Reason.code)

/-- Records returned, lost count, records left, then the records (R167). -/
def eventReadResults (q : PortState) : List Byte :=
  enc1 (q.events.take 4).length ++ enc1 q.lost ++ enc1 (q.events.drop 4).length
    ++ (q.events.take 4).flatMap encEventRecord

def eventReadAct (p : PortId) (c : Command) (_ : Unit) (s : State) : State :=
  answer p c .ok (eventReadResults (s.port p)) (s.modPort p fun q => { q with events := q.events.drop 4, lost := 0 })

def execEventRead (p : PortId) (s : State) : Result :=
  .next (takeCommand p (rowOf Code.eventRead) parseNone eventReadCheck (eventReadAct p) s)

/-! ## Lapse (R144) -/

/-- The stream's part of a lapse: it ends with reason LAPSED, and STREAM_ABORTED is raised while the port still takes
events (R131). -/
def lapseStream (p : PortId) (s : State) : State :=
  match (s.port p).stream.state, (s.port p).stream.channel with
  | .idle, _ => s
  | _, some ch =>
    raise p (abortedEvent ch .streamLapsed) ((sendCleanup p false s).modPort p fun q =>
      q.modStream fun x => { x.toIdle with outcome := some .lapsed })
  | _, none => s.modPort p fun q => q.modStream fun x => { x.toIdle with outcome := some .lapsed }

/-- A lapse, steps 1 to 5; step 6 follows when the table has taken the notice. -/
def lapse (p : PortId) (s : State) : State :=
  let s1 := dropStaging p (lapseStream p s)
  let s2 := s1.modPort p fun q => q.modRecord fun x =>
    { x with state := .lapsed, periodTimer := none, pauseTimer := none, pauseLimit := none }
  sendTable p .lapseNotice (answerWaiting p .lapsed s2)

/-! ## PERIOD_EXPIRY (R141) and PAUSE_EXPIRY (R143) -/

/-- The event PRESENCE_LOW, subject the port itself. -/
def presenceLowEvent (p : PortId) : Event := { kind := .presenceLow, subject := p.val }

/-- A period expiry below debt 8: the debt rises by 1, PRESENCE_LOW is raised on 5 to 6, and the timer takes another
period. A late expiry does not move the later ones (R138: no drift). -/
def expirePeriod (p : PortId) (s : State) : State :=
  let x := (s.port p).record
  let s1 := s.modPort p fun q => q.modRecord fun x =>
    { x with debt := x.debt + 1, periodTimer := x.periodTimer.map (· + (x.period.getD 0 : Nat)) }
  if x.debt = 5 then raise p (presenceLowEvent p) s1 else s1

/-- A period expiry is due: the port is PRESENT, its period timer has reached 0, and no command is in progress. -/
def periodDue (q : PortState) : Bool :=
  q.record.state == .present && q.busy.isNone
    && (match q.record.periodTimer with | some t => decide (t ≤ 0) | none => false)

def execPeriodExpiry (p : PortId) (s : State) : Result :=
  .next (if s.running && periodDue (s.port p) then
      endPortEvent p s (if 8 ≤ (s.port p).record.debt then lapse p s else expirePeriod p s)
    else s)

/-- A pause expiry is due: the port is PAUSED and its pause timer has reached 0. -/
def pauseDue (q : PortState) : Bool :=
  q.record.state == .paused && q.busy.isNone && q.record.pauseTimer == some 0

def execPauseExpiry (p : PortId) (s : State) : Result :=
  .next (if s.running && pauseDue (s.port p) then endPortEvent p s (lapse p s) else s)

end Sys2Proof.Machine
end

