-- ==== Sys2Proof/Machine/Notices.lean ====
section
/-! DEFINITION. What the table and the store take from the paths of the part: port notices (R58 to R61), abort and
abandonment requests (R72, R92), releases (R15), expiry notices (R21, R56, R75, R82), answers that return after a port
reset (R146), and the completion of a drain (R37). -/

namespace Sys2Proof.Machine

/-- The head of the port's path to the table. -/
def headMsg (s : State) (p : PortId) : Option TableMsg := (s.port p).toTable.head?

/-! ## The attach notice (R60) -/

/-- A SUSPENDED subscription made ACTIVE again: lag 0, resumed set; on FANOUT the seals of the suspension counted as
overruns and the effective mode set under R52. -/
def reactivated (c : Channel) (sub : Sub) : Sub :=
  let missed := match sub.mark with
    | some m => (c.posted - m).toNat
    | none => 0
  let fan := sub.fan.map fun f =>
    { f with effective := effectiveFor f.requested (decide (c.reserved ≤ f.limit)) }
  { (if c.kind = some .fanout then sub.addOverrun missed else sub) with
    suspended := false, resumed := true, mark := none, fan := fan }

/-- The port's subscription on the channel is SUSPENDED. -/
def isSuspended (c : Channel) (p : PortId) : Bool := (c.sub p).any Sub.suspended

def reactivate (p : PortId) (ch : ChanId) (s : State) : State :=
  if isSuspended (s.chan ch) p then s.modChan ch fun c => c.modSub p (reactivated c) else s

/-- The number of the port's SUSPENDED subscriptions. -/
def suspendedCount (s : State) (p : PortId) : Nat := (allChannels.filter fun ch => isSuspended (s.chan ch) p).length

/-- The number of the port's subscriptions. -/
def subscriptionCount (s : State) (p : PortId) : Nat :=
  (allChannels.filter fun ch => ((s.chan ch).sub p).isSome).length

/-- The table takes the attach notice (R60). -/
def attachAtTable (p : PortId) (s : State) : State := settleAll (forChannels (reactivate p) (s.setMark p .present))

/-- The command in progress is answered and complete. -/
def answerBusy (p : PortId) (status : Status) (results : List Byte) (s : State) : State :=
  match (s.port p).busy with
  | some c => answer p c status results (s.modPort p fun q => { q with busy := none })
  | none => s

/-- The attach notice with what follows at the port (R139 step 4 and its answer); PEER stands behind the table's own
events, as at a lapse notice (DESIGN CHOICE, log 38). -/
def attachNotice (p : PortId) (s : State) : State :=
  match headMsg s p with
  | some (.attachNotice awaited) =>
    let s1 := raisePeer p .attached (attachAtTable p (popTable p s))
    endPortEvent p s (if awaited then answerBusy p .ok (enc1 (suspendedCount s p)) s1 else s1)
  | _ => s

def execAttachNotice (p : PortId) (s : State) : Result := .next (attachNotice p s)

/-! ## The pause and resume notices (R58); abort and abandonment requests (R72, R92) -/

/-- The port's BLOCKING subscription on the channel becomes DEFERRED. -/
def deferBlocking (p : PortId) (ch : ChanId) (s : State) : State :=
  if (s.chan ch).effective p = some .blocking then s.modChan ch (·.setEffective p .deferred) else s

def pauseAtTable (p : PortId) (s : State) : State := settleAll (forChannels (deferBlocking p) (s.setMark p .paused))

def resumeAtTable (p : PortId) (s : State) : State := settleAll (s.setMark p .present)

/-- The record is SEALED in the channel's log and claimed by the port (R72). -/
def claimedBy (s : State) (ch : ChanId) (p : PortId) (r : RecId) : Bool :=
  (s.record r).state == .sealed && (s.chan ch).log.contains r && (s.record r).claimant == some p

/-- The table takes what stands at the head of the port's path when that is a pause or a resume notice (R58), an abort
request (R92) or an abandonment request (R72); any other head stays where it is. The caller ends the event. -/
def takePathHead (p : PortId) (s : State) : State :=
  match headMsg s p with
  | some .pauseNotice => pauseAtTable p (popTable p s)
  | some .resumeNotice => resumeAtTable p (popTable p s)
  | some (.abort r ch) => settle ch (abortFilling ch p r (popTable p s))
  | some (.abandon r ch) =>
    if claimedBy s ch p r then settle ch (abandonClaim ch r (popTable p s)) else popTable p s
  | _ => s

/-- The table takes what waits on the port's path, in order, up to a head that `takePathHead` leaves (R25, R45). -/
def takeWaiting (p : PortId) (s : State) : State := (s.port p).toTable.foldl (fun s _ => takePathHead p s) s

def pauseNotice (p : PortId) (s : State) : State :=
  match headMsg s p with
  | some .pauseNotice => endEvent s (takePathHead p s)
  | _ => s

def execPauseNotice (p : PortId) (s : State) : Result := .next (pauseNotice p s)

def resumeNotice (p : PortId) (s : State) : State :=
  match headMsg s p with
  | some .resumeNotice => endEvent s (takePathHead p s)
  | _ => s

def execResumeNotice (p : PortId) (s : State) : Result := .next (resumeNotice p s)

/-! ## The lapse notice (R59) -/

/-- The subscription as a lapse suspends it: on FANOUT the lag is counted as overruns, the posted count is marked, and
requested BLOCKING becomes DEFERRED. -/
def suspended (c : Channel) (lagNow : Nat) (sub : Sub) : Sub :=
  { (if c.kind = some .fanout then
      { sub.addOverrun lagNow with
        mark := some c.posted
        fan := sub.fan.map fun f => { f with effective := effectiveFor f.requested false } }
     else sub) with suspended := true }

/-- What the lapse notice does at one channel. -/
def lapseAt (p : PortId) (ch : ChanId) (s : State) : State :=
  let s1 := dropAllReaders ch p s
  let s2 := abandonClaims ch p s1
  s2.modChan ch fun c => c.modSub p (suspended c (lag s ch p))

def lapseAtTable (p : PortId) (s : State) : State := settleAll (forChannels (lapseAt p) (s.setMark p .absent))

/-- The lapse notice, then PEER to the other ports (R59, R144). R151 gives the events of different blocks no order: on the
queue of another port the table's own events of the notice, DISCARDED and CHANNEL_GONE, stand before the departing
controller's PEER (DESIGN CHOICE, log 38). -/
def lapseNotice (p : PortId) (s : State) : State :=
  match headMsg s p with
  | some .lapseNotice => endEvent s (raisePeer p .peerLapsed (lapseAtTable p (popTable p s)))
  | _ => s

def execLapseNotice (p : PortId) (s : State) : Result := .next (lapseNotice p s)

/-! ## The detach and reset notices (R61) -/

/-- What the detach notice and the reset notice do at one channel. -/
def departAt (p : PortId) (ch : ChanId) (s : State) : State :=
  (abandonClaims ch p (dropAllReaders ch p s)).modChan ch fun c => c.setSub p none

def departAtTable (p : PortId) (s : State) : State := settleAll (forChannels (departAt p) (s.setMark p .absent))

/-- The responses that wait are discarded; one that a RESPONSE frame is sending no longer stands (R145, R166). -/
def discardResponses (l : Link) : Link :=
  { l with
    responses := []
    transaction := match l.transaction with
      | .response r _ => .response r false
      | t => t }

/-- Steps 5 and 6 of DETACH at the port, but for PEER (R145). -/
def completeDetach (p : PortId) (removed : Nat) (s : State) : State :=
  let s1 := s.modPort p fun q => { q.modLink discardResponses with events := [], lost := 0 }
  let s2 := answerWaiting p .detached (answerBusy p .ok (enc1 removed) s1)
  s2.modPort p fun q => { q with record := {} }

/-- The detach notice, what its awaiting controller then does, and PEER to the other ports (R61, R145), behind the table's
own DISCARDED and CHANNEL_GONE as at a lapse notice (DESIGN CHOICE, log 38). -/
def detachNotice (p : PortId) (s : State) : State :=
  match headMsg s p with
  | some (.detachNotice awaited) =>
    let s1 := departAtTable p (popTable p s)
    let s2 := if awaited then completeDetach p (subscriptionCount s p) s1 else s1
    endPortEvent p s (raisePeer p .detached s2)
  | _ => s

def execDetachNotice (p : PortId) (s : State) : Result := .next (detachNotice p s)

/-- The reset notice, then PEER to the other ports (R61, R147), behind the table's own DISCARDED and CHANNEL_GONE as at a
lapse notice (DESIGN CHOICE, log 38). -/
def resetNotice (p : PortId) (s : State) : State :=
  match headMsg s p with
  | some .resetNotice => endEvent s (raisePeer p .reset (departAtTable p (popTable p s)))
  | _ => s

def execResetNotice (p : PortId) (s : State) : Result := .next (resetNotice p s)

def abortRequest (p : PortId) (s : State) : State :=
  match headMsg s p with
  | some (.abort _ _) => endEvent s (takePathHead p s)
  | _ => s

def execAbortRequest (p : PortId) (s : State) : Result := .next (abortRequest p s)

def abandonmentRequest (p : PortId) (s : State) : State :=
  match headMsg s p with
  | some (.abandon _ _) => endEvent s (takePathHead p s)
  | _ => s

def execAbandonmentRequest (p : PortId) (s : State) : Result := .next (abandonmentRequest p s)

/-! ## Releases (R15) -/

/-- The store takes the release at the head of the port's path. It names a record and a port and no read (R15): a release
that a forced close has overtaken (R39) removes the port from the holders also when the port has come to hold the
reallocated record anew, where R40 and R13 could be read to keep that hold (DESIGN CHOICE, log 44). -/
def takeNextRelease (p : PortId) (s : State) : State :=
  match (s.port p).releases with
  | r :: rest => endEvent s (releaseRecord p r (s.modPort p fun q => { q with releases := rest }))
  | [] => s

def execRelease (p : PortId) (s : State) : Result := .next (takeNextRelease p s)

/-! ## Expiry (R20, R21, R56, R75, R82) -/

def expiryTimerFire (r : RecId) (s : State) : State :=
  if s.running && timerDue s.tick (s.record r) then s.setStore (s.store.fireTimer r) else s

def execExpiryTimerFire (r : RecId) (s : State) : Result := .next (expiryTimerFire r s)

/-- The notice is not stale (R21). -/
def noticeValid (s : State) (n : ExpiryNotice) : Bool :=
  (s.record n.record).state == .sealed && (s.record n.record).fired
    && (s.chan n.channel).log.contains n.record && (s.record n.record).sequence == some n.sequence

/-- A valid expiry: the message leaves its log, the listed ports count an overrun (FANOUT; no port is listed on the
other kinds), the dropped count rises, the record is retired, and a withdrawal raises EXPIRED_HELD to its holders. -/
def expireMessage (ch : ChanId) (r : RecId) (s : State) : State :=
  let s1 := s.modChan ch fun c => { c with log := c.log.filter (· != r) }
  let s2 := (countOverruns ch (listedPorts (s.record r)) s1).modChan ch Channel.countDropped
  let t := retireRecord ch r s2
  raiseEach (members t.2) (chanEvent .expiredHeld ch) t.1

/-- The notice leaves the path. -/
def popNotice (n : ExpiryNotice) (s : State) : State :=
  s.setStore { s.store with notices := s.store.notices.erase n }

def expiryNotice (n : ExpiryNotice) (s : State) : State :=
  if s.store.notices.contains n then
    let s1 := popNotice n s
    endEvent s (if noticeValid s n then settle n.channel (expireMessage n.channel n.record s1) else s1)
  else s

def execExpiryNotice (n : ExpiryNotice) (s : State) : Result := .next (expiryNotice n s)

/-! ## An answer that returns after a port reset (R146) -/

/-- The controller keeps nothing of what the request made: an admitted record is aborted, a hold released. -/
def undoMade (p : PortId) (m : Made) (s : State) : State :=
  match m with
  | .nothing => s
  | .admitted r ch => sendTable p (.abort r ch) s
  | .held r => sendRelease p r s

def answerReturn (p : PortId) (s : State) : State :=
  match (s.port p).returns with
  | m :: rest => undoMade p m (s.modPort p fun q => { q with returns := rest })
  | [] => s

def execAnswerReturnAfterReset (p : PortId) (s : State) : Result := .next (answerReturn p s)

/-! ## The completion of a drain (R37, R38) -/

def execDrainComplete (ch : ChanId) (s : State) : Result := .next (endEvent s (evaluateDrain ch s))

end Sys2Proof.Machine
end

