-- ==== Sys2Proof/Machine/Streams.lean ====
section
/-! DEFINITION. The stream commands and the data chunks (chapter 7: R117 to R135; R91). -/

namespace Sys2Proof.Machine

/-- OPEN_POST and OPEN_FETCH when the context is not IDLE are answered BUSY (R118, R119). -/
def streamIdleCheck {α : Type} (q : PortState) (_ : α) : Option Status :=
  if q.stream.state = .idle then none else some .busy

/-! ## OPEN_POST (R118) -/

/-- The allocation an OPEN_POST asks for: form OPEN when the length is 0 (R84). -/
def streamAllocation (p : PortId) (a : OpenPostParams) : Allocation :=
  { channel := a.channel, origin := p, form := if a.length = 0 then .openEnded else .counted, length := a.length,
    tag := a.tag, ttl := a.ttl }

def openPostEvent (p : PortId) (a : OpenPostParams) : State → TableAnswer × State :=
  withChannel a.channel fun s =>
    match admission (streamAllocation p a) s with
    | (.error e, s1) => ({ status := e }, s1)
    | (.ok m, s1) =>
      ({ status := .ok, results := enc2 a.length ++ enc1 m.evicted, made := .admitted m.record a.channel }, s1)

/-- The context becomes WRITING (R118); every field is set anew but the last outcome (R117). -/
def Stream.openWriting (x : Stream) (a : OpenPostParams) (r : RecId) : Stream :=
  { state := .writing, direction := some .write
    mode := some (if a.length = 0 then .openEnded else .counted)
    channel := some a.channel, record := some r
    remaining := if a.length = 0 then none else some a.length
    burst := a.burst, outcome := x.outcome, xreq := x.xreq }

def openPostFinish (p : PortId) (c : Command) (a : OpenPostParams) (t : TableAnswer) (s : State) : State :=
  match t.made with
  | .admitted r _ => answer p c t.status t.results (s.modPort p fun q => q.modStream (·.openWriting a r))
  | .nothing => answer p c t.status t.results s
  | .held _ => answer p c t.status t.results s

def execOpenPost (p : PortId) (s : State) : Result :=
  .next (tableCommand p (rowOf Code.openPost) parseOpenPost streamIdleCheck (openPostEvent p) (openPostFinish p) s)

/-! ## OPEN_FETCH (R119) -/

/-- Check 2 of a fetch-open request: FANOUT in either mode and LATEST with CONSUME need an ACTIVE subscription. -/
def openFetchNeedsSub (c : Channel) (p : PortId) (consume : Bool) : Bool :=
  (c.kind == some .fanout || (c.kind == some .latest && consume)) && !c.active p

/-- The hold, and on QUEUE after it the claim (R14, R70). -/
def holdTarget (ch : ChanId) (p : PortId) (r : RecId) (s : State) : Option State :=
  match s.store.hold r p with
  | .error _ => none
  | .ok st =>
    some (if (s.chan ch).kind = some .queue then (s.setStore st).changeFields r fun x => { x with claimant := some p }
      else s.setStore st)

/-- Sequence, length, tag present, tag, redeliveries and damage indication (R119). -/
def openFetchResults (s : State) (ch : ChanId) (r : RecId) : List Byte :=
  let x := s.record r
  enc2 (seqOf s r).toNat ++ enc2 x.length ++ encFlag x.tag.isSome ++ encOpt2FF (x.tag.map BitVec.toNat)
    ++ enc1 (reportedRedeliveries s ch r) ++ encFlag x.damaged

def openFetchEvent (p : PortId) (a : OpenFetchParams) : State → TableAnswer × State :=
  withChannel a.channel fun s =>
    if openFetchNeedsSub (s.chan a.channel) p a.consume then ({ status := .nosub }, s)
    else match fetchTarget s a.channel p with
      | none => ({ status := .empty }, s)
      | some r =>
        match holdTarget a.channel p r s with
        | none => ({ status := .busy }, s)
        | some s1 => ({ status := .ok, results := openFetchResults s a.channel r, made := .held r }, s1)

/-- The context becomes READING on the held record (R119). -/
def Stream.openReading (x : Stream) (a : OpenFetchParams) (r : RecId) (length : Nat) (damaged : Bool) : Stream :=
  { state := .reading, direction := some .read, mode := some .counted, channel := some a.channel, record := some r
    remaining := some length, burst := a.burst, consume := a.consume, damageSeen := damaged
    outcome := x.outcome, xreq := x.xreq }

def openFetchFinish (p : PortId) (c : Command) (a : OpenFetchParams) (t : TableAnswer) (s : State) : State :=
  match t.made with
  | .held r =>
    answer p c t.status t.results (s.modPort p fun q =>
      q.modStream (·.openReading a r (s.record r).length (s.record r).damaged))
  | .nothing => answer p c t.status t.results s
  | .admitted _ _ => answer p c t.status t.results s

def execOpenFetch (p : PortId) (s : State) : Result :=
  .next (tableCommand p (rowOf Code.openFetch) parseOpenFetch streamIdleCheck (openFetchEvent p) (openFetchFinish p) s)

/-! ## Chunks: what both directions share -/

/-- The context rejects a data frame, keeping the reason (R120, R124, R125). -/
def rejectChunk (p : PortId) (why : Rejection) (s : State) : FrameResult × State :=
  (.rejected, s.modPort p fun q => q.modStream fun x => { x with rejection := some why })

/-- The counts after a chunk of n bytes taken as new (R122, R123); a burst that completes sets paced (R127). Of a DATA_IN
frame this is at its third byte, where its chunk is served, before the frame's end (DEDUCED, log 36). -/
def Stream.advance (x : Stream) (n : Nat) : Stream :=
  { x with
    byteCount := x.byteCount + n
    remaining := x.remaining.map (· - n)
    lastLength := n
    expected := x.expected + 1#8
    progress := x.progress + n
    paced := x.paced || (x.burst != 0 && (decide (x.burst ≤ x.progress + n) || x.remaining.map (· - n) == some 0)) }

/-- The frame carries the number of the chunk taken last (R120, R123). -/
def Stream.isResend (x : Stream) (chunk : Byte) : Bool := chunk == x.expected - 1#8 && x.lastLength != 0

/-! ## Data-out chunks (R91, R120 to R122) -/

/-- The table's answer to an extension request (R91). -/
inductive Extension where
  | granted (s : State)
  | refused
  | noEffect

/-- An extension request, taken by the table (R91). It names a record and a port, and R53's list of the events at a channel
does not name it, though its first sentence speaks of every event there: the channel's DEFERRED subscriptions are not
evaluated after it (DEDUCED, log 39). -/
def extendRecord (ch : ChanId) (p : PortId) (r : RecId) (s : State) : Extension :=
  if (s.record r).state = .filling ∧ (s.record r).channel = some ch ∧ (s.record r).origin = some p
      ∧ (s.chan ch).state ≠ .unused then
    if (s.chan ch).quota < (s.chan ch).blocksInUse + 1 then .refused
    else match s.store.extend r with
      | .ok st => .granted ((s.setStore st).modChan ch fun c => { c with blocksInUse := c.blocksInUse + 1 })
      | .error _ => .refused
  else .noEffect

/-- Length and space of a chunk of n bytes (R121): the reason of a rejection, or the state with the space at hand. -/
def chunkSpace (ch : ChanId) (p : PortId) (r : RecId) (n : Nat) (s : State) : Except Rejection State :=
  let x := (s.port p).stream
  if x.mode = some .openEnded then
    if 4096 < x.byteCount + n then .error .length
    else if 64 * (s.record r).chain.length < x.byteCount + n then
      match extendRecord ch p r s with
      | .granted s1 => .ok s1
      | .refused => .error .nospace
      | .noEffect => .error .state
    else .ok s
  else if x.remaining.getD 0 < n then .error .length
  else .ok s

/-- A stream write whose record was sealed: the context is IDLE, the outcome is kept, STREAM_DONE is raised (R122,
R128). -/
def finishWrite (p : PortId) (ch : ChanId) (seq : Half) (s : State) : State :=
  raise p (chanEvent .streamDone ch) (s.modPort p fun q =>
    q.modStream fun x => { x.toIdle with outcome := some (.sealed seq) })

/-- A chunk with the expected number, length and space settled, is written; the last byte of a count-mode write seals
the record (R122), the table's events of that seal standing on the queues before the controller's STREAM_DONE (DESIGN
CHOICE, log 38). -/
def takeChunk (ch : ChanId) (p : PortId) (r : RecId) (data : List Byte) (s : State) : FrameResult × State :=
  match s.store.write p r (s.port p).stream.byteCount data with
  | .error _ => rejectChunk p .state s
  | .ok st =>
    let s1 := (s.setStore st).modPort p fun q => q.modStream (·.advance data.length)
    if (s1.port p).stream.remaining = some 0 ∧ (s1.port p).stream.mode = some .counted then
      match sealMessage ch p r s1 with
      | (some x, s2) => (.accepted, finishWrite p ch x.sequence (settle ch s2))
      | (none, _) => rejectChunk p .state s
    else (.accepted, s1)

/-- A chunk of n bytes makes a request of the table: the extension its bytes need, or the seal its last byte brings
(R91, R121, R122). -/
def asksTable (x : Stream) (entries n : Nat) : Bool :=
  if x.mode = some .openEnded then decide (x.byteCount + n ≤ 4096 ∧ 64 * entries < x.byteCount + n)
  else x.remaining == some n

/-- A DATA_OUT frame at the stream context: the checks of R120 in order, then R121 and R122. A request that the frame makes
of the table is taken behind what the port handed over earlier, its notices above all (R25, R45), within the frame's
event (R165; log 10). -/
def takeDataOut (p : PortId) (chunk : Byte) (data : List Byte) (s : State) : FrameResult × State :=
  let x := (s.port p).stream
  if (s.port p).record.state = .paused then rejectChunk p .paused s
  else if x.state ≠ .writing then rejectChunk p .state s
  else if x.isResend chunk then (.accepted, s)
  else if chunk ≠ x.expected then rejectChunk p .order s
  else match x.record, x.channel with
    | some r, some ch =>
      let s0 := if asksTable x (s.record r).chain.length data.length then takeWaiting p s else s
      match chunkSpace ch p r data.length s0 with
      | .error why => rejectChunk p why s0
      | .ok s1 => takeChunk ch p r data s1
    | _, _ => rejectChunk p .state s

/-! ## Data-in chunks (R123, R124) -/

/-- What a DATA_IN frame returns: the result written and the bytes served. -/
structure Served where
  result : FrameResult
  data   : List Byte
  deriving DecidableEq, Repr

/-- A rejected DATA_IN frame serves nothing. -/
def rejectIn (p : PortId) (why : Rejection) (s : State) : Served × State :=
  (⟨.rejected, []⟩, (rejectChunk p why s).2)

/-- The read of the last byte: READ_DONE and STREAM_DONE (R123). -/
def readDone (p : PortId) (s : State) : State :=
  match (s.port p).stream.remaining, (s.port p).stream.channel with
  | some 0, some ch =>
    raise p (chanEvent .streamDone ch) (s.modPort p fun q => q.modStream fun x => { x with state := .readDone })
  | _, _ => s

/-- A chunk served as new (R123). -/
def serveNew (p : PortId) (r : RecId) (s : State) : Served × State :=
  let x := (s.port p).stream
  match s.store.read r x.byteCount (min 64 (x.remaining.getD 0)) with
  | .error _ => rejectIn p .state s
  | .ok ((data, damaged), st) =>
    (⟨.accepted, data⟩, readDone p ((s.setStore st).modPort p fun q => q.modStream fun x =>
      { x.advance data.length with damageSeen := x.damageSeen || damaged }))

/-- The last chunk served again (R123). -/
def serveAgain (p : PortId) (r : RecId) (s : State) : Served × State :=
  let x := (s.port p).stream
  match s.store.read r (x.byteCount - x.lastLength) x.lastLength with
  | .error _ => rejectIn p .state s
  | .ok ((data, damaged), st) =>
    (⟨.accepted, data⟩, (s.setStore st).modPort p fun q => q.modStream fun x =>
      { x with damageSeen := x.damageSeen || damaged })

/-- A DATA_IN frame's chunk number at the stream context: the checks of R124 in order, then R123. -/
def takeDataIn (p : PortId) (chunk : Byte) (s : State) : Served × State :=
  let x := (s.port p).stream
  if (s.port p).record.state = .paused then rejectIn p .paused s
  else if x.state = .idle ∨ x.state = .writing then rejectIn p .state s
  else match x.record with
    | none => rejectIn p .state s
    | some r =>
      if x.isResend chunk then serveAgain p r s
      else if chunk = x.expected ∧ x.state = .reading then serveNew p r s
      else rejectIn p .order s

/-! ## STREAM_END (R128, R129) -/

/-- STREAM_END in IDLE, in a count-mode write and in READING is answered ORDER; in an open-ended write of no bytes,
LENGTH. -/
def streamEndCheck (q : PortState) (_ : Unit) : Option Status :=
  match q.stream.state with
  | .idle => some .order
  | .writing =>
    if q.stream.mode = some .openEnded then (if q.stream.byteCount = 0 then some .length else none) else some .order
  | .reading => some .order
  | .readDone => none

/-- The table's answer to an end-of-read request (R49, R71, R80, R129). -/
inductive ReadEnd where
  | consumed
  | returned
  | read
  | skipped
  | withdrawn
  /-- The port's read no longer stands on the record: no effect. -/
  | gone
  deriving DecidableEq, Repr

/-- The port's read stands on the record as a message of the channel: on a SEALED record of a QUEUE channel it carries the
port's claim (R71), on any other the port's hold (R14). An end-of-read request that a port reset left with the table may
find neither (log 32), and so may that of a read whose hold an earlier read's late release has removed (log 44). -/
def readStands (s : State) (ch : ChanId) (p : PortId) (r : RecId) : Bool :=
  (s.record r).channel == some ch
    && (if (s.chan ch).kind = some .queue ∧ (s.record r).state = .sealed then (s.record r).claimant == some p
      else inSet (s.record r).holders p)

/-- An end-of-read request, taken by the table. -/
def endOfRead (ch : ChanId) (p : PortId) (r : RecId) (consume : Bool) (s : State) : ReadEnd × State :=
  if readStands s ch p r = false then (.gone, s)
  else match (s.record r).state, (s.chan ch).kind, consume with
    | .withdrawn, some .queue, _ => (.withdrawn, s)
    | .withdrawn, _, true => (.withdrawn, s)
    | .withdrawn, _, false => (.read, s)
    | .sealed, some .fanout, true =>
      if (s.record r).lists p then (.consumed, dropReader ch p r s) else (.skipped, s)
    | .sealed, some .queue, true => (.consumed, (removeMessage ch r s).1)
    | .sealed, some .queue, false =>
      (.returned, s.changeFields r fun x => { x with claimant := none })
    | .sealed, some .latest, true =>
      (.consumed, s.modChan ch fun c => c.modSub p fun sub => { sub with seen := (s.record r).sequence })
    | .sealed, _, false => (.read, s)
    | .sealed, none, true => (.gone, s)
    | .filling, _, _ => (.gone, s)
    | .free, _, _ => (.gone, s)

/-- The status of a STREAM_END by the table's answer (R129). -/
def ReadEnd.status : ReadEnd → Status
  | .consumed => .ok
  | .returned => .ok
  | .read => .ok
  | .withdrawn => .withdrawn
  | .skipped => .skipped
  | .gone => .order

/-- The seal of an open-ended write, with the end of the table's event (R93, R128). -/
def sealOpen (ch : ChanId) (p : PortId) (r : RecId) (s : State) : Option Sealed × State :=
  match sealMessage ch p r s with
  | (some x, s1) => (some x, settle ch s1)
  | (none, s1) => (none, s1)

/-- The results of a STREAM_END that sealed (R128). -/
def sealResults (k : Option Kind) (x : Sealed) (length : Nat) : List Byte :=
  enc2 x.sequence.toNat ++ enc2 length ++ (if k = some .fanout then enc1 x.listed else [])
    ++ (if k = some .latest then encFlag x.replaced else [])

/-- STREAM_END of an open-ended write (R128); as in a count-mode write, STREAM_DONE follows the table's events (log 38). -/
def endWrite (p : PortId) (c : Command) (ch : ChanId) (r : RecId) (s : State) : State :=
  match sealOpen ch p r s with
  | (some x, s1) =>
    answer p c .ok (sealResults (s.chan ch).kind x (s.record r).length) (finishWrite p ch x.sequence s1)
  | (none, s1) => answer p c .order [] s1

/-- The results of a STREAM_END that ends a read (R129): sequence, length, DAMAGED, withdrawn, and on FANOUT with
consume the lag. `before` is the state before the end-of-read request, `after` the state it left. -/
def readEndResults (before after : State) (ch : ChanId) (p : PortId) (r : RecId) (x : Stream) : List Byte :=
  enc2 (seqOf before r).toNat ++ enc2 (before.record r).length ++ encFlag x.damageSeen
    ++ encFlag ((after.record r).state == .withdrawn)
    ++ (if (before.chan ch).kind = some .fanout ∧ x.consume then enc1 (lag after ch p) else [])

/-- STREAM_END in READ_DONE (R129): the end-of-read request, then the release, in the controller's event. The request names
the record and the mode and is not in R53's list of the events at a channel, and a PEEK has no effect at the table; the
channel's DEFERRED subscriptions are evaluated after it in every mode, as R53's first sentence says (DEDUCED, log 43). -/
def endReading (p : PortId) (c : Command) (ch : ChanId) (r : RecId) (s : State) : State :=
  let x := (s.port p).stream
  let e := endOfRead ch p r x.consume s
  let s1 := settle ch e.2
  let s2 := releaseRecord p r s1
  answer p c e.1.status (readEndResults s s1 ch p r x) (s2.modPort p fun q =>
    q.modStream fun x => { x.toIdle with outcome := some .ended })

/-- The effect of a STREAM_END that passed its checks. -/
def streamEndAct (p : PortId) (c : Command) (s : State) : State :=
  let x := (s.port p).stream
  match x.record, x.channel with
  | some r, some ch => if x.state = .writing then endWrite p c ch r s else endReading p c ch r s
  | _, _ => answer p c .order [] s

/-- The table takes a seal or end-of-read request that a port reset left at the head of the path (R146); the evaluation
after an end-of-read is that of `endReading` (log 43). -/
def takeOrphanEnd (p : PortId) (s : State) : State :=
  match orphanRequest s p with
  | some (.seal_ r ch) => takeOrphan p (fun s => ({ status := .ok }, (sealOpen ch p r s).2)) s
  | some (.endOfRead r ch consume) =>
    takeOrphan p (fun s => ({ status := .ok }, settle ch (endOfRead ch p r consume s).2)) s
  | some (.command _) => s
  | none => s

def execStreamEnd (p : PortId) (s : State) : Result :=
  .next (commandAtTable p (rowOf Code.streamEnd) parseNone streamEndCheck (fun c _ => streamEndAct p c)
    (takeOrphanEnd p) s)

/-! ## STREAM_STOP (R130) -/

/-- STREAM_STOP in IDLE is answered ORDER. -/
def streamStopCheck (q : PortState) (_ : Unit) : Option Status :=
  if q.stream.state = .idle then some .order else none

/-- The stream ends without sealing and without consuming: its cleanup is handed over, STREAM_ABORTED is raised with
reason STOPPED, the answer is the byte count. -/
def streamStopAct (p : PortId) (c : Command) (_ : Unit) (s : State) : State :=
  let x := (s.port p).stream
  let s1 := (sendCleanup p true s).modPort p fun q =>
    q.modStream fun x => { x.toIdle with outcome := some .stopped }
  let s2 := match x.channel with
    | some ch => raise p (abortedEvent ch .stopped) s1
    | none => s1
  answer p c .ok (enc2 x.byteCount) s2

def execStreamStop (p : PortId) (s : State) : Result :=
  .next (takeCommand p (rowOf Code.streamStop) parseNone streamStopCheck (streamStopAct p) s)

/-! ## STREAM_QUERY (R135) -/

/-- The stream is a read. -/
def Stream.isRead (x : Stream) : Bool := x.direction == some .read

/-- The sequence of a SEALED outcome. -/
def outcomeSequence (o : Option StreamOutcome) : Option Nat :=
  match o with
  | some (.sealed seq) => some seq.toNat
  | _ => none

/-- A figure of the record of a read, absent otherwise. -/
def ofRead (s : State) (x : Stream) (f : Record → Nat) : Option Nat :=
  if x.isRead then x.record.map fun r => f (s.record r) else none

/-- A figure of an open-ended write, absent otherwise. -/
def ofOpenWrite (x : Stream) (n : Nat) : Option Nat := if x.openWrite then some n else none

def streamQueryResults (s : State) (p : PortId) : List Byte :=
  let x := (s.port p).stream
  enc1 x.state.code ++ encOpt1FF (x.direction.map Direction.code) ++ encOpt1FF (x.mode.map Form.code)
    ++ encOpt1FF (x.channel.map Fin.val)
    ++ enc2 x.byteCount ++ encOpt2FF x.remaining ++ enc1 x.expected.toNat ++ encBurst x.burst ++ enc2 x.progress
    ++ encFlag x.consume ++ encFlag x.damageSeen
    ++ encOpt2FF (ofOpenWrite x (room s.store s.table x))
    ++ encOpt2FF (ofOpenWrite x (x.record.elim 0 fun r => (s.record r).length))
    ++ encOpt2 (ofRead s x fun m => (m.sequence.getD 0).toNat) ++ encOpt2 (ofRead s x Record.length)
    ++ encOpt1FF (ofRead s x fun m => if m.state = .withdrawn then 1 else 0)
    ++ enc1 (rejectionCode x.rejection) ++ enc1 (outcomeCode x.outcome) ++ encOpt2 (outcomeSequence x.outcome)

def streamQueryAct (p : PortId) (c : Command) (_ : Unit) (s : State) : State :=
  answer p c .ok (streamQueryResults s p) s

def execStreamQuery (p : PortId) (s : State) : Result :=
  .next (takeCommand p (rowOf Code.streamQuery) parseNone noCheck (streamQueryAct p) s)

end Sys2Proof.Machine
end

