-- ==== Sys2Proof/Machine/Link.lean ====
section
/-! DEFINITION. Transactions and frames of the port link (chapter 10: R158 to R166; R169 for frames before READY). -/

namespace Sys2Proof.Machine

/-! ## Chip-select -/

/-- The controller's part of a chip-select fall: paced is cleared, a resumed port's wait ends (R134), and the ready
condition is evaluated (R126, R127). -/
def fallStream (p : PortId) (s : State) : State :=
  evalXreq p (s.modPort p fun q => q.modStream fun x => { x with paced := false, awaitFall := false })

/-- The link's part of a chip-select fall: the status byte is formed from the state at the end of the event and loaded
(R158). -/
def loadStatus (p : PortId) (s : State) : State :=
  s.modPort p fun q => q.modLink fun l => { l with transaction := .begun, rx := [], tx := [statusByte s p] }

/-- The level of the port's chip-select pin. -/
def setChipSelect (p : PortId) (low : Bool) (s : State) : State := s.modPort p fun q => { q with csLow := low }

/-- The link takes chip-select and clock: no device reset stands and PRST is high (R168, R171). -/
def linkLive (s : State) (p : PortId) : Bool := s.phase != .held && !(s.port p).prstLow

def chipSelectFall (p : PortId) (s : State) : State :=
  if (s.port p).csLow then s
  else if linkLive s p then loadStatus p (fallStream p (setChipSelect p true s))
  else setChipSelect p true s

def execChipSelectFall (p : PortId) (s : State) : Result := .next (chipSelectFall p s)

/-- The complete bytes of a DATA_IN frame cut before its third byte (R158). -/
def dataInCutBytes (cut : DataInCut) : List Byte :=
  match cut with
  | .uncut => []
  | .afterType => [FrameType.dataIn]
  | .afterNumber chunk => [FrameType.dataIn, chunk]

/-- The transaction has begun and no frame in it has acted. -/
def Transaction.noFrameYet (t : Transaction) : Bool := t == .begun || t == .early

/-- The bytes of a cut DATA_IN frame that the rise adds to those received: none where another frame has acted. -/
def bytesAtRise (cut : DataInCut) (t : Transaction) : List Byte := if t.noFrameYet then dataInCutBytes cut else []

/-- The last-frame result that the frame's end writes (R158, R159, R164): none for a transaction without a frame, CHECK for
a DATA_IN frame cut before its third byte (R161), and REFUSED before READY (R169, log 21). -/
def resultAtRise (ready : Bool) (cut : DataInCut) (t : Transaction) : Option FrameResult :=
  match t with
  | .idle => none
  | .begun => if cut = .uncut then none else some (if ready then .check else .refused)
  | .early => if cut = .uncut then none else some .refused
  | .noneFrame => some .accepted
  | .response _ _ => some .check
  | .decided r => r

/-- The transaction ends. -/
def endTransaction (result : Option FrameResult) (l : Link) : Link :=
  { l with transaction := .idle, result := result.getD l.result }

/-- The bytes of a frame stand received, and the part has driven FFh in each after the first, with which the status byte
went out (R158). -/
def Link.carry (l : Link) (bytes : List Byte) : Link :=
  { l with rx := l.rx ++ bytes, tx := l.tx ++ List.replicate (bytes.length - 1) 0xFF#8 }

/-- Chip-select rises. A DATA_IN frame that it cuts has been received as far as its bytes are complete, and FFh was driven
in its byte 1 (R158, R165). -/
def chipSelectRise (p : PortId) (cut : DataInCut) (s : State) : State :=
  s.modPort p fun q =>
    { q.modLink (fun l =>
        endTransaction (resultAtRise s.running cut l.transaction) (l.carry (bytesAtRise cut l.transaction))) with
      csLow := false }

def execChipSelectRise (p : PortId) (cut : DataInCut) (s : State) : Result :=
  .next (if (s.port p).csLow then chipSelectRise p cut s else s)

/-! ## Frames that act at their end: POLL, COMMAND, DATA_OUT and frames of no type (R158, R161) -/

/-- A frame of the given bytes ends its transaction: chip-select rises, the bytes have been carried (R158), and the last-frame result is written, if the frame writes one. -/
def endFrame (p : PortId) (bytes : List Byte) (result : Option FrameResult) (s : State) : State :=
  s.modPort p fun q =>
    { q.modLink (fun l =>
        endTransaction result ({ l with rx := [] }.carry bytes)) with
      csLow := false }

/-- A transaction has begun and carries no frame yet. -/
def begun (s : State) (p : PortId) : Bool := (s.port p).link.transaction.noFrameYet

/-- The frame of the transaction in progress is taken: READY is 1, and was 1 when chip-select fell (R169). -/
def framesTaken (s : State) (p : PortId) : Bool := s.running && (s.port p).link.transaction != .early

/-- POLL (R159, R161): exactly one byte leaves the last-frame result as it was; more bytes fail the check; more bytes of a
frame that is not taken are refused. -/
def pollResult (taken : Bool) (rest : List Byte) : Option FrameResult :=
  if rest.isEmpty then none else some (if taken then .check else .refused)

def execPoll (p : PortId) (rest : List Byte) (s : State) : Result :=
  .next (if begun s p then endFrame p (FrameType.poll :: rest) (pollResult (framesTaken s p) rest) s else s)

/-- A command joins the tail of the command queue (R162). -/
def acceptCommand (p : PortId) (c : Command) (s : State) : State :=
  s.modPort p fun q => q.modLink fun l => { l with commands := l.commands ++ [c] }

/-- COMMAND (R161, R162): refused before READY and when all 8 slots are in use, CHECK when the form or the CRC fails,
else accepted into a slot. -/
def takeCommandFrame (p : PortId) (rest : List Byte) (s : State) : FrameResult × State :=
  if framesTaken s p = false then (.refused, s)
  else match parseCommandFrame rest with
    | none => (.check, s)
    | some c =>
      if (s.port p).slotsInUse < Config.slots then (.accepted, acceptCommand p c s) else (.refused, s)

def execCommandFrame (p : PortId) (rest : List Byte) (s : State) : Result :=
  .next (if begun s p then
      let r := takeCommandFrame p rest s
      endFrame p (FrameType.command :: rest) (some r.1) r.2
    else s)

/-- A frame whose type byte is not one of the five codes: CHECK, or REFUSED before READY (R161). -/
def execInvalidFrameType (p : PortId) (type : Byte) (rest : List Byte) (s : State) : Result :=
  .next (if begun s p && decide (4 < type.toNat) then
      endFrame p (type :: rest) (some (if framesTaken s p then .check else .refused)) s
    else s)

/-- DATA_OUT (R161, R165): refused before READY, CHECK when the form or the CRC fails, else the stream context decides. -/
def takeDataOutFrame (p : PortId) (rest : List Byte) (s : State) : FrameResult × State :=
  if framesTaken s p = false then (.refused, s)
  else match parseDataOut rest with
    | none => (.check, s)
    | some (chunk, data) =>
      let r := takeDataOut p chunk data s
      (r.1, endPortEvent p s r.2)

def execDataOut (p : PortId) (rest : List Byte) (s : State) : Result :=
  .next (if begun s p then
      let r := takeDataOutFrame p rest s
      endFrame p (FrameType.dataOut :: rest) (some r.1) r.2
    else s)

/-! ## RESPONSE (R164) -/

/-- Bytes the part drives next in the transaction, after what it has driven. -/
def drive (p : PortId) (bytes : List Byte) (t : Transaction) (s : State) : State :=
  s.modPort p fun q => q.modLink fun l => { l with tx := l.tx ++ bytes, transaction := t }

/-- The bytes received so far in the frame. -/
def receive (p : PortId) (bytes : List Byte) (s : State) : State :=
  s.modPort p fun q => q.modLink fun l => { l with rx := l.rx ++ bytes }

/-- Write the last-frame result. -/
def setResult (p : PortId) (r : FrameResult) (s : State) : State :=
  s.modPort p fun q => q.modLink fun l => { l with result := r }

/-- The type byte of a RESPONSE frame: the response at the head of the queue is fixed and sent, or a NONE frame. Before
READY the frame is refused (R169) and gives the bytes that follow no content (log 21). -/
def responseFrame (p : PortId) (s : State) : State :=
  if framesTaken s p = false then drive p [] (.decided none) (setResult p .refused (receive p [FrameType.response] s))
  else match (s.port p).link.responses.head? with
    | none => drive p [0x00#8] .noneFrame (receive p [FrameType.response] s)
    | some r => drive p (responseBytes r) (.response r true) (receive p [FrameType.response] s)

def execResponseFrame (p : PortId) (s : State) : Result := .next (if begun s p then responseFrame p s else s)

/-- The head of the response queue is delivered and its slot freed. -/
def popResponse (p : PortId) (s : State) : State :=
  s.modPort p fun q => q.modLink fun l => { l with responses := l.responses.tail }

/-- The byte after what the frame has fixed. In a RESPONSE frame it is the release byte (R164): A5h delivers the fixed
response while it still stands; the result is written at the frame's end. In a NONE frame, after a release byte and in a
frame already decided it has no content: the part drives FFh and nothing else changes (R158, R164). -/
def releaseByte (p : PortId) (value : Byte) (s : State) : State :=
  match (s.port p).link.transaction with
  | .response _ standing =>
    if value = 0xA5#8 ∧ standing = true then
      drive p [0xFF#8] (.decided (some .accepted)) (popResponse p (receive p [value] s))
    else drive p [0xFF#8] (.decided (some .check)) (receive p [value] s)
  | .noneFrame => drive p [0xFF#8] .noneFrame (receive p [value] s)
  | .decided result => drive p [0xFF#8] (.decided result) (receive p [value] s)
  | .idle => s
  | .begun => s
  | .early => s

def execReleaseByte (p : PortId) (value : Byte) (s : State) : Result := .next (releaseByte p value s)

/-! ## DATA_IN (R165) -/

/-- The part sends FFh in both bytes of the request, then its reply; the last-frame result stands from here on. -/
def replyDataIn (p : PortId) (chunk complement : Byte) (r : Served) (s : State) : State :=
  drive p ([0xFF#8, 0xFF#8] ++ dataInReply chunk r.data) (.decided none)
    (setResult p r.result (receive p [FrameType.dataIn, chunk, complement] s))

/-- The third byte of a DATA_IN frame completes (R165): a complement that does not match is answered with length 0 and
CHECK; otherwise the stream context takes the number. Before READY the frame is refused (R169), with FFh in both bytes of
the request (R158; log 21). -/
def dataIn (p : PortId) (chunk complement : Byte) (s : State) : State :=
  if framesTaken s p = false then
    drive p [0xFF#8, 0xFF#8] (.decided none) (setResult p .refused (receive p [FrameType.dataIn, chunk, complement] s))
  else if complement ≠ ~~~chunk then replyDataIn p chunk complement ⟨.check, []⟩ s
  else
    let r := takeDataIn p chunk s
    replyDataIn p chunk complement r.1 (endPortEvent p s r.2)

def execDataIn (p : PortId) (chunk complement : Byte) (s : State) : Result :=
  .next (if begun s p then dataIn p chunk complement s else s)

/-! ## A malformed command (R163 check 1) -/

/-- The controller takes a command marked malformed: MALFORMED, no results, the code echoed. -/
def malformedCommand (p : PortId) (s : State) : State :=
  match nextCommand s p with
  | none => s
  | some c => if c.malformed then endPortEvent p s (answer p c .malformed [] (popCommand p s)) else s

def execMalformedCommand (p : PortId) (s : State) : Result := .next (malformedCommand p s)

end Sys2Proof.Machine
end

