-- ==== Sys2Proof/Machine/Channels.lean ====
section
/-! DEFINITION. Commands that act on a channel as a whole (chapter 2: R32 to R43). -/

namespace Sys2Proof.Machine

/-! ## DEFINE (R32, R33) -/

/-- The lowest-numbered UNUSED channel. -/
def lowestUnused (s : State) : Option ChanId := allChannels.find? fun ch => (s.chan ch).state == .unused

def defineEvent (a : DefineParams) (s : State) : TableAnswer × State :=
  match channelNamed s a.name with
  | some ch =>
    if (s.chan ch).state = .opened then
      ({ status := .exists_, results := enc1 ch.val ++ enc1 ((s.chan ch).kind.elim 0 Kind.code) }, s)
    else ({ status := .closed, results := enc1 ch.val }, s)
  | none =>
    match lowestUnused s with
    | none => ({ status := .nospace }, s)
    | some ch =>
      ({ status := .ok, results := enc1 ch.val },
        s.setChan ch { state := .opened, name := some a.name, kind := some a.kind, depth := a.depth, quota := a.quota,
                       posters := a.posters, admins := a.admins })

def execDefine (p : PortId) (s : State) : Result :=
  .next (tableCommand p (rowOf Code.define) parseDefine noCheck defineEvent (finishPlain p) s)

/-! ## LOOKUP (R34) -/

def lookupEvent (name : List Byte) (s : State) : TableAnswer × State :=
  match channelNamed s name with
  | some ch =>
    ({ status := .ok, results := enc1 ch.val ++ enc1 ((s.chan ch).kind.elim 0 Kind.code)
        ++ enc1 (s.chan ch).state.code }, s)
  | none => ({ status := .nochannel }, s)

def execLookup (p : PortId) (s : State) : Result :=
  .next (tableCommand p (rowOf Code.lookup) parseLookup noCheck lookupEvent (finishPlain p) s)

/-! ## CLOSE (R35) -/

/-- The option byte of a CLOSE command says FORCE. -/
def isForce (c : Command) : Bool := c.params[1]? == some 1

/-- The CLOSE row: the command without FORCE (log 14). -/
def closeRow (c : Command) : Bool := c.code == Code.close && !isForce c

/-- The CLOSE_FORCE row: the command with FORCE. -/
def closeForceRow (c : Command) : Bool := c.code == Code.close && isForce c

/-- An OPEN channel becomes DRAINING with CHANNEL_CLOSING to its subscribers, and the drain condition is evaluated. -/
def beginDrain (ch : ChanId) (s : State) : State :=
  evaluateDrain ch (raiseEach (subscribers (s.chan ch)) (chanEvent .channelClosing ch)
    (s.modChan ch fun c => { c with state := .draining }))

def closeEvent (p : PortId) (a : CloseParams) : State → TableAnswer × State :=
  withAdmin p a.channel fun s =>
    let s1 := if (s.chan a.channel).state = .opened then beginDrain a.channel s else s
    ({ status := .ok, results := enc1 (s1.chan a.channel).state.code }, s1)

def execClose (p : PortId) (s : State) : Result :=
  .next (tableCommand p closeRow parseClose noCheck (closeEvent p) (finishPlain p) s)

/-! ## CLOSE with FORCE (R39, R40) -/

/-- A controller takes the abort notice of a forced close (R40, R132): its stream ends with reason CHANNEL_GONE. -/
def abortStreamNotice (p : PortId) (ch : ChanId) (s : State) : State :=
  evalXreq p (raise p (abortedEvent ch .channelGone) (s.modPort p fun q =>
    q.modStream fun x => { x.toIdle with outcome := some .channelGone }))

/-- A staging list with the live entry of a record replaced, in place, by a void marker (R40, R97). -/
def voidEntries (r : RecId) (es : List StageEntry) : List StageEntry :=
  es.map fun e => match e with
    | .live r' ch => if r' = r then .void ch else .live r' ch
    | .void ch => .void ch

/-- The staging list has a live entry for the record. -/
def stages (r : RecId) (es : List StageEntry) : Bool :=
  es.any fun e => match e with
    | .live r' _ => r' == r
    | .void _ => false

/-- A controller takes the void notice of a forced close (R40): the entry becomes a void marker, GROUP_VOID is raised. -/
def voidNotice (p : PortId) (ch : ChanId) (r : RecId) (s : State) : State :=
  raise p (chanEvent .groupVoid ch) (s.modPort p fun q => { q with staging := voidEntries r q.staging })

/-- The stream context of the port writes the record. -/
def writesRecord (x : Stream) (r : RecId) : Bool := x.state == .writing && x.record == some r

/-- The stream context of the port reads the record. -/
def readsRecord (x : Stream) (r : RecId) : Bool :=
  (x.state == .reading || x.state == .readDone) && x.record == some r

/-- Step 2 of a forced close for one FILLING record: the abort, and the notice to the controller whose work it was. -/
def closeFilling (ch : ChanId) (r : RecId) (s : State) : State :=
  match (s.record r).origin with
  | some o =>
    let s1 := abortFilling ch o r s
    if writesRecord (s1.port o).stream r then abortStreamNotice o ch s1
    else if stages r (s1.port o).staging then voidNotice o ch r s1 else s1
  | none => s

/-- The FILLING records that name a channel, in ascending number. -/
def fillingOn (s : State) (ch : ChanId) : List RecId :=
  allRecords.filter fun r => (s.record r).state == .filling && (s.record r).channel == some ch

/-- The records of a channel that a port holds. R39 orders the ports whose holds a forced close ends, and not two records
that one port holds (a stopped read whose release is not yet taken, and a newer read): they are taken in ascending number
(DESIGN CHOICE, log 41). -/
def heldOn (s : State) (ch : ChanId) (p : PortId) : List RecId :=
  allRecords.filter fun r => (s.record r).channel == some ch && inSet (s.record r).holders p

/-- Step 3 of a forced close for one held record: the release on the port's behalf, and the abort notice. A
release of the same hold that waits on the port's path stays there (DESIGN CHOICE, log 44). -/
def closeHeld (ch : ChanId) (p : PortId) (s : State) (r : RecId) : State :=
  let s1 := (takeRelease p r s).1
  if readsRecord (s1.port p).stream r then abortStreamNotice p ch s1 else s1

/-- A forced close, steps 1 to 4 (R39). R151 gives the events of different blocks no order: on the queue of a port that
streams or stages on the channel and subscribes to it, the STREAM_ABORTED or GROUP_VOID that its controller raises in steps
2 and 3 stands before the table's CHANNEL_GONE of step 4 (DESIGN CHOICE, log 38). -/
def forceClose (ch : ChanId) (s : State) : State :=
  let s1 := emptyLog ch s
  let s2 := (fillingOn s1 ch).foldl (fun s r => closeFilling ch r s) s1
  let s3 := forPorts (fun p s => (heldOn s ch p).foldl (closeHeld ch p) s) s2
  becomeUnused ch s3

def closeForceEvent (p : PortId) (a : CloseParams) : State → TableAnswer × State :=
  withAdmin p a.channel fun s =>
    ({ status := .ok, results := enc1 ChanState.unused.code ++ enc1 (s.chan a.channel).log.length },
      forceClose a.channel s)

def execCloseForce (p : PortId) (s : State) : Result :=
  .next (tableCommand p closeForceRow parseClose noCheck (closeForceEvent p) (finishPlain p) s)

/-! ## PURGE (R41) -/

def purgeEvent (p : PortId) (ch : ChanId) : State → TableAnswer × State :=
  withAdmin p ch fun s =>
    ({ status := .ok, results := enc1 (s.chan ch).log.length },
      evaluateDrain ch (raiseEach (subscribers (s.chan ch)) (chanEvent .channelPurged ch) (emptyLog ch s)))

def execPurge (p : PortId) (s : State) : Result :=
  .next (tableCommand p (rowOf Code.purge) parseChannel noCheck (purgeEvent p) (finishPlain p) s)

/-! ## MODIFY (R42) -/

/-- A port outside the new poster set has a FILLING record on the channel. -/
def leavesOutPoster (s : State) (ch : ChanId) (posters : PortSet) : Bool :=
  (fillingOn s ch).any fun r => match (s.record r).origin with
    | some o => !inSet posters o
    | none => false

/-- The table's checks of MODIFY, in order. -/
def modifyCheck (s : State) (a : ModifyParams) : Option Status :=
  let c := s.chan a.channel
  if c.kind = some .latest ∧ a.depth.any (· != 1) then some .limit
  else if c.kind ≠ some .latest ∧ a.depth.any (fun d => decide (d < c.log.length + c.reserved)) then some .limit
  else if a.quota.any (fun q => decide (q < c.blocksInUse)) then some .limit
  else if a.posters.any (leavesOutPoster s a.channel) then some .busy
  else none

def modifyEvent (p : PortId) (a : ModifyParams) : State → TableAnswer × State :=
  withAdmin p a.channel fun s =>
    match modifyCheck s a with
    | some st => ({ status := st }, s)
    | none =>
      let s1 := s.modChan a.channel fun c =>
        { c with depth := a.depth.getD c.depth, quota := a.quota.getD c.quota,
                 posters := a.posters.getD c.posters, admins := a.admins.getD c.admins }
      ({ status := .ok, results := enc1 (s1.chan a.channel).depth ++ enc2 (s1.chan a.channel).quota }, s1)

def execModify (p : PortId) (s : State) : Result :=
  .next (tableCommand p (rowOf Code.modify) parseModify noCheck (modifyEvent p) (finishPlain p) s)

/-! ## CHANNEL_QUERY (R43) -/

/-- The ports whose subscription is SUSPENDED. -/
def suspendedSet (c : Channel) : PortSet := portsWhere fun p => (c.sub p).any Sub.suspended

def channelQueryResults (s : State) (ch : ChanId) : List Byte :=
  let c := s.chan ch
  enc1 c.state.code ++ c.name.getD [] ++ enc1 (c.kind.elim 0 Kind.code) ++ enc1 c.depth ++ enc2 c.quota
    ++ enc2 c.blocksInUse ++ enc1 c.log.length ++ enc1 c.reserved ++ enc2 c.withdrawn
    ++ encSet c.posters ++ encSet c.admins
    ++ enc2 c.nextSeq.toNat ++ enc2 c.posted.toNat ++ enc2 c.dropped
    ++ encSet (portsWhere fun p => (c.sub p).isSome) ++ encSet (suspendedSet c)
    ++ encOpt2 (c.log.head?.map fun r => (seqOf s r).toNat) ++ encOpt2 (c.log.getLast?.map fun r => (seqOf s r).toNat)

def channelQueryEvent (ch : ChanId) : State → TableAnswer × State :=
  withChannel ch fun s => ({ status := .ok, results := channelQueryResults s ch }, s)

def execChannelQuery (p : PortId) (s : State) : Result :=
  .next (tableCommand p (rowOf Code.channelQuery) parseChannel noCheck channelQueryEvent (finishPlain p) s)

end Sys2Proof.Machine
end

