-- ==== Sys2Proof/Machine/Posting.lean ====
section
/-! DEFINITION. Inline posts and staged groups (chapter 5: R95 to R101). -/

namespace Sys2Proof.Machine

/-- The allocation an inline post asks for: form COUNT, the payload's length (R84, R85). -/
def inlineAllocation (p : PortId) (a : PostParams) : Allocation :=
  { channel := a.channel, origin := p, form := .counted, length := a.payload.length, tag := a.tag, ttl := a.ttl }

/-- The table writes the payload of an inline post at offset 0, on the origin port's behalf (R89). -/
def writeInline (p : PortId) (r : RecId) (payload : List Byte) (s : State) : State :=
  match s.store.write p r 0 payload with
  | .ok st => s.setStore st
  | .error _ => s

/-- Admission and payload of an inline post (R85 to R89). -/
def admitInline (p : PortId) (a : PostParams) (s : State) : Except Status Admitted × State :=
  match admission (inlineAllocation p a) s with
  | (.ok m, s1) => (.ok m, writeInline p m.record a.payload s1)
  | (.error e, s1) => (.error e, s1)

/-- The kind-dependent results of a post's seal (R95): listed ports on FANOUT, evictions, replacement on LATEST. -/
def postResults (k : Option Kind) (x : Sealed) (evicted : Nat) : List Byte :=
  enc2 x.sequence.toNat ++ (if k = some .fanout then enc1 x.listed else []) ++ enc1 evicted
    ++ (if k = some .latest then encFlag x.replaced else [])

/-! ## POST (R95) -/

/-- POST at the table: admission, payload, seal and the end of the event, in one event. -/
def postEvent (p : PortId) (a : PostParams) : State → TableAnswer × State :=
  withChannel a.channel fun s =>
    match admitInline p a s with
    | (.error e, s1) => ({ status := e }, s1)
    | (.ok m, s1) =>
      match sealMessage a.channel p m.record s1 with
      | (some x, s2) =>
        ({ status := .ok, results := postResults (s.chan a.channel).kind x m.evicted }, settle a.channel s2)
      | (none, s2) => ({ status := .order }, s2)

def execPost (p : PortId) (s : State) : Result :=
  .next (tableCommand p (rowOf Code.post) parsePost noCheck (postEvent p) (finishPlain p) s)

/-! ## STAGE (R98) -/

/-- A STAGE when the staging list holds 8 entries is answered FULL. -/
def stageCheck (q : PortState) (_ : PostParams) : Option Status :=
  if Config.stagingCapacity ≤ q.staging.length then some .full else none

/-- STAGE at the table: admission and payload, no seal. -/
def stageEvent (p : PortId) (a : PostParams) : State → TableAnswer × State :=
  withChannel a.channel fun s =>
    match admitInline p a s with
    | (.error e, s1) => ({ status := e }, s1)
    | (.ok m, s1) => ({ status := .ok, results := enc1 m.evicted, made := .admitted m.record a.channel }, s1)

/-- The controller appends a live entry and answers with its position, then the table's result. -/
def stageFinish (p : PortId) (c : Command) (_ : PostParams) (a : TableAnswer) (s : State) : State :=
  match a.made with
  | .admitted r ch =>
    answer p c a.status (enc1 ((s.port p).staging.length + 1) ++ a.results)
      (s.modPort p fun q => { q with staging := q.staging ++ [.live r ch] })
  | .nothing => answer p c a.status a.results s
  | .held _ => answer p c a.status a.results s

def execStage (p : PortId) (s : State) : Result :=
  .next (tableCommand p (rowOf Code.stage) parsePost stageCheck (stageEvent p) (stageFinish p) s)

/-! ## COMMIT (R99, R100) -/

/-- COMMIT and DISCARD with an empty staging list are answered EMPTY. -/
def stagingEmptyCheck (q : PortState) (_ : Unit) : Option Status := if q.staging.isEmpty then some .empty else none

/-- The live entries of a staging list, in staging order. -/
def liveEntries (es : List StageEntry) : List (RecId × ChanId) :=
  es.filterMap fun e => match e with
    | .live r ch => some (r, ch)
    | .void _ => none

/-- Seal every entry of a list in order, collecting the sequences (R99). -/
def sealEntries (p : PortId) : List (RecId × ChanId) → State → List Half × State
  | [], s => ([], s)
  | (r, ch) :: es, s =>
    match sealMessage ch p r s with
    | (some x, s1) => let (seqs, s2) := sealEntries p es s1; (x.sequence :: seqs, s2)
    | (none, s1) => sealEntries p es s1

/-- Abort every entry of a list in order (R100, R101). -/
def abortEntries (p : PortId) (es : List (RecId × ChanId)) (s : State) : State :=
  es.foldl (fun s e => abortFilling e.2 p e.1 s) s

/-- The end of the event at every channel a group touched (R37, R53, R99, R101). The manual gives no order for the
CHANNEL_GONE events of several drains that one COMMIT or DISCARD completes: the channels are taken in staging order, after
every entry has been sealed or aborted (DESIGN CHOICE, log 35). -/
def settleEntries (es : List (RecId × ChanId)) (s : State) : State := es.foldl (fun s e => settle e.2 s) s

/-- Empty the staging list. -/
def clearStaging (p : PortId) (s : State) : State := s.modPort p fun q => { q with staging := [] }

/-- COMMIT at the table: the list as it stands is read and emptied; without a void marker every entry is sealed, with
one every live entry is aborted. -/
def commitEvent (p : PortId) (_ : Unit) (s : State) : TableAnswer × State :=
  let list := (s.port p).staging
  let live := liveEntries list
  let s1 := clearStaging p s
  if live.length = list.length then
    let (seqs, s2) := sealEntries p live s1
    ({ status := .ok, results := enc1 seqs.length ++ seqs.flatMap (fun q => enc2 q.toNat) }, settleEntries live s2)
  else
    ({ status := .voided, results := enc1 (list.length - live.length) ++ enc1 live.length },
      settleEntries live (abortEntries p live s1))

def execCommit (p : PortId) (s : State) : Result :=
  .next (tableCommand p (rowOf Code.commit) parseNone stagingEmptyCheck (commitEvent p) (finishPlain p) s)

/-! ## DISCARD (R101) -/

def discardEvent (p : PortId) (_ : Unit) (s : State) : TableAnswer × State :=
  let list := (s.port p).staging
  let live := liveEntries list
  ({ status := .ok, results := enc1 live.length ++ enc1 (list.length - live.length) },
    settleEntries live (abortEntries p live (clearStaging p s)))

def execDiscard (p : PortId) (s : State) : Result :=
  .next (tableCommand p (rowOf Code.discard) parseNone stagingEmptyCheck (discardEvent p) (finishPlain p) s)

end Sys2Proof.Machine
end

