-- ==== Sys2Proof/Machine/Startup.lean ====
section
/-! DEFINITION. Port reset, device reset, start-up and the tick (R138, R146, R168 to R171). -/

namespace Sys2Proof.Machine

/-! ## The request a port reset may find handed to the table (R146, R148) -/

/-- The command passes checks 2 to 4 of R163. -/
def passes {α : Type} (parse : List Byte → Option α) (own : PortState → α → Option Status) (q : PortState) (c : Command) :
    Bool :=
  match checkCommand parse own q c with
  | .ok _ => true
  | .error _ => false

/-- A command that needs the table passes the controller's checks (R163 check 5). -/
def reachesTable (q : PortState) (c : Command) : Bool :=
  match c.code.toNat with
  | 0x20 => passes parseDefine noCheck q c
  | 0x21 => passes parseLookup noCheck q c
  | 0x22 => passes parseClose noCheck q c
  | 0x23 => passes parseChannel noCheck q c
  | 0x24 => passes parseModify noCheck q c
  | 0x25 => passes parseChannel noCheck q c
  | 0x30 => passes parseSubscribe noCheck q c
  | 0x31 => passes parseChannel noCheck q c
  | 0x32 => passes parseSubModify noCheck q c
  | 0x33 => passes parseSubQuery noCheck q c
  | 0x40 => passes parsePost noCheck q c
  | 0x41 => passes parsePost stageCheck q c
  | 0x42 => passes parseNone stagingEmptyCheck q c
  | 0x43 => passes parseNone stagingEmptyCheck q c
  | 0x50 => passes parseFetch noCheck q c
  | 0x51 => passes parseSkip noCheck q c
  | 0x60 => passes parseOpenPost streamIdleCheck q c
  | 0x61 => passes parseOpenFetch streamIdleCheck q c
  | 0x62 => passes parseNone streamEndCheck q c
  | _ => false

/-- The request of a command that reaches the table: its parameters, or for STREAM_END the seal or end-of-read request
(R128, R129). -/
def requestOf (q : PortState) (c : Command) : Option Request :=
  if c.malformed || !reachesTable q c then none
  else if c.code = Code.streamEnd then
    match q.stream.record, q.stream.channel with
    | some r, some ch => some (if q.stream.state = .writing then .seal_ r ch else .endOfRead r ch q.stream.consume)
    | _, _ => none
  else some (.command c)

/-- The request of the command at the head of the queue, when it is with the table as PRST falls. -/
def handedRequest (p : PortId) (s : State) : Option Request := (nextCommand s p).bind (requestOf (s.port p))

/-! ## PORT_RESET (R146, R171) -/

/-- A notice whose command a port reset dropped is answered to no one. -/
def TableMsg.unawaited : TableMsg → TableMsg
  | .attachNotice _ => .attachNotice false
  | .detachNotice _ => .detachNotice false
  | .abort r ch => .abort r ch
  | .abandon r ch => .abandon r ch
  | .pauseNotice => .pauseNotice
  | .resumeNotice => .resumeNotice
  | .lapseNotice => .lapseNotice
  | .resetNotice => .resetNotice
  | .request q => .request q

/-- The controller and the link interface take their reset values while PRST is low; what is on the paths to the table
and the store, and what returns from the table, stays there. -/
def PortState.portReset (q : PortState) : PortState :=
  { toTable := q.toTable.map TableMsg.unawaited, releases := q.releases, returns := q.returns, prstLow := true,
    csLow := q.csLow }

/-- What the controller hands over in a port reset, in this order: a request already with the table, the stream's
cleanup, an abort for each live staged entry, the reset notice (R102, R131, R146). -/
def resetHandover (p : PortId) (handed : Option Request) (s : State) : State :=
  let s1 := match handed with
    | some q => sendTable p (.request q) s
    | none => s
  sendTable p .resetNotice (dropStaging p (sendCleanup p false s1))

/-- The link takes nothing more of a transaction in progress (R171). -/
def cutTransaction (p : PortId) (s : State) : State :=
  s.modPort p fun q => { q.modLink (fun l => { l with transaction := .idle }) with prstLow := true }

/-- PRST falls. While a device reset stands or the pool is being initialised it adds nothing but the pin's level
(R171). -/
def portReset (p : PortId) (requestHanded : Bool) (s : State) : State :=
  if (s.port p).prstLow then s
  else if s.running = false then cutTransaction p s
  else
    let handed := if requestHanded then handedRequest p s else none
    (resetHandover p handed s).modPort p PortState.portReset

def execPortReset (p : PortId) (requestHanded : Bool) (s : State) : Result := .next (portReset p requestHanded s)

/-- PRST rises: no state changes but the pin's level (R171). -/
def execPrstRelease (p : PortId) (s : State) : Result := .next (s.modPort p fun q => { q with prstLow := false })

/-! ## Device reset (R168) -/

/-- Every block at its device reset values; the input pins keep their levels, and the commands that wait are not the
part's. -/
def deviceReset (resetLow powerHold : Bool) (s : State) : State where
  store := Store.reset
  table := Table.reset
  ports := s.ports.map fun q => { prstLow := q.prstLow, csLow := q.csLow }
  tick := 0
  phase := .held
  resetLow := resetLow
  powerHold := powerHold
  pending := s.pending

/-- RESET is driven low. -/
def execDeviceReset (s : State) : Result := .next (deviceReset true s.powerHold s)

/-- The power-on detector finds the supply below its valid level. -/
def execPowerOnReset (s : State) : Result := .next (deviceReset s.resetLow true s)

/-! ## Start-up (R169) -/

/-- One source releases its hold. -/
def releaseSource (source : ResetSource) (s : State) : State :=
  match source with
  | .resetPin => { s with resetLow := false }
  | .powerDetector => { s with powerHold := false }

/-- Pool initialisation begins: the tick counter starts from 0, every byte of the pool is written 00h and every check
code agrees (R23, R169). -/
def beginInitialisation (s : State) : State :=
  { s with phase := .initialising, tick := 0, store := { s.store with pool := [], codes := [] } }

/-- The later release of the two sources is the one that counts (R168). -/
def deviceResetRelease (source : ResetSource) (s : State) : State :=
  let s1 := releaseSource source s
  if s1.phase = .held ∧ s1.resetLow = false ∧ s1.powerHold = false then beginInitialisation s1 else s1

def execDeviceResetRelease (source : ResetSource) (s : State) : Result := .next (deviceResetRelease source s)

/-- A transaction whose chip-select fell while READY was 0 stays so marked: frames are taken from the next chip-select fall
onward (R169). -/
def Transaction.atReady (t : Transaction) : Transaction := if t = .begun then .early else t

/-- Initialisation completes: READY becomes 1 on all four ports in the same event. -/
def poolInitialisationDone (s : State) : State :=
  if s.phase = .initialising then
    { s with
      phase := .ready
      ports := s.ports.map fun q => q.modLink fun l => { l with transaction := l.transaction.atReady } }
  else s

def execPoolInitialisationDone (s : State) : Result := .next (poolInitialisationDone s)

/-! ## TICK (R138, R170) -/

/-- A port's timers count a tick: the period timer while PRESENT, the pause timer while PAUSED (R138). -/
def PortRecord.countTick (x : PortRecord) : PortRecord :=
  match x.state with
  | .present => { x with periodTimer := x.periodTimer.map (· - 1) }
  | .paused => { x with pauseTimer := x.pauseTimer.map (· - 1) }
  | .detached => x
  | .lapsed => x

/-- A tick: the expiry timers that are still due at the count that ends fire, so that none outlives its deadline (R20,
log 7), and the count moves on. While a device reset stands the counter is 0 and no timer runs (R168). -/
def tick (s : State) : State :=
  if s.phase = .held then s
  else { s with
    store := s.store.fireDue s.tick
    tick := s.tick + 1#32
    ports := s.ports.map fun q => q.modRecord PortRecord.countTick }

def execTick (s : State) : Result := .next (tick s)

end Sys2Proof.Machine
end

