-- ==== Sys2Proof/Machine/Dispatch.lean ====
section
/-! DEFINITION. One arm per row of spec/opcode_table.json. -/

namespace Sys2Proof.Machine

open Sys2Proof

def exec (i : Instr) (s : State) : Host.Outcome State Fault Refusal :=
  match i with
  | .attach p => Sys2Proof.Machine.execAttach p s
  | .detach p => Sys2Proof.Machine.execDetach p s
  | .checkin p => Sys2Proof.Machine.execCheckin p s
  | .pause p => Sys2Proof.Machine.execPause p s
  | .resume p => Sys2Proof.Machine.execResume p s
  | .portQuery p => Sys2Proof.Machine.execPortQuery p s
  | .eventEnable p => Sys2Proof.Machine.execEventEnable p s
  | .eventRead p => Sys2Proof.Machine.execEventRead p s
  | .define p => Sys2Proof.Machine.execDefine p s
  | .lookup p => Sys2Proof.Machine.execLookup p s
  | .close p => Sys2Proof.Machine.execClose p s
  | .closeForce p => Sys2Proof.Machine.execCloseForce p s
  | .purge p => Sys2Proof.Machine.execPurge p s
  | .modify p => Sys2Proof.Machine.execModify p s
  | .channelQuery p => Sys2Proof.Machine.execChannelQuery p s
  | .subscribe p => Sys2Proof.Machine.execSubscribe p s
  | .unsubscribe p => Sys2Proof.Machine.execUnsubscribe p s
  | .subModify p => Sys2Proof.Machine.execSubModify p s
  | .subQuery p => Sys2Proof.Machine.execSubQuery p s
  | .post p => Sys2Proof.Machine.execPost p s
  | .stage p => Sys2Proof.Machine.execStage p s
  | .commit p => Sys2Proof.Machine.execCommit p s
  | .discard p => Sys2Proof.Machine.execDiscard p s
  | .fetchPeek p => Sys2Proof.Machine.execFetchPeek p s
  | .fetchConsume p => Sys2Proof.Machine.execFetchConsume p s
  | .skip p => Sys2Proof.Machine.execSkip p s
  | .openPost p => Sys2Proof.Machine.execOpenPost p s
  | .openFetch p => Sys2Proof.Machine.execOpenFetch p s
  | .streamEnd p => Sys2Proof.Machine.execStreamEnd p s
  | .streamStop p => Sys2Proof.Machine.execStreamStop p s
  | .streamQuery p => Sys2Proof.Machine.execStreamQuery p s
  | .malformedCommand p => Sys2Proof.Machine.execMalformedCommand p s
  | .chipSelectFall p => Sys2Proof.Machine.execChipSelectFall p s
  | .poll p rest => Sys2Proof.Machine.execPoll p rest s
  | .commandFrame p rest => Sys2Proof.Machine.execCommandFrame p rest s
  | .invalidFrameType p type rest => Sys2Proof.Machine.execInvalidFrameType p type rest s
  | .responseFrame p => Sys2Proof.Machine.execResponseFrame p s
  | .releaseByte p value => Sys2Proof.Machine.execReleaseByte p value s
  | .dataOut p rest => Sys2Proof.Machine.execDataOut p rest s
  | .dataIn p chunk complement => Sys2Proof.Machine.execDataIn p chunk complement s
  | .portReset p requestHanded => Sys2Proof.Machine.execPortReset p requestHanded s
  | .prstRelease p => Sys2Proof.Machine.execPrstRelease p s
  | .deviceReset => Sys2Proof.Machine.execDeviceReset s
  | .powerOnReset => Sys2Proof.Machine.execPowerOnReset s
  | .deviceResetRelease source => Sys2Proof.Machine.execDeviceResetRelease source s
  | .poolInitialisationDone => Sys2Proof.Machine.execPoolInitialisationDone s
  | .tick => Sys2Proof.Machine.execTick s
  | .periodExpiry p => Sys2Proof.Machine.execPeriodExpiry p s
  | .pauseExpiry p => Sys2Proof.Machine.execPauseExpiry p s
  | .expiryTimerFire r => Sys2Proof.Machine.execExpiryTimerFire r s
  | .expiryNotice n => Sys2Proof.Machine.execExpiryNotice n s
  | .release p => Sys2Proof.Machine.execRelease p s
  | .abortRequest p => Sys2Proof.Machine.execAbortRequest p s
  | .abandonmentRequest p => Sys2Proof.Machine.execAbandonmentRequest p s
  | .attachNotice p => Sys2Proof.Machine.execAttachNotice p s
  | .pauseNotice p => Sys2Proof.Machine.execPauseNotice p s
  | .resumeNotice p => Sys2Proof.Machine.execResumeNotice p s
  | .lapseNotice p => Sys2Proof.Machine.execLapseNotice p s
  | .detachNotice p => Sys2Proof.Machine.execDetachNotice p s
  | .resetNotice p => Sys2Proof.Machine.execResetNotice p s
  | .answerReturnAfterReset p => Sys2Proof.Machine.execAnswerReturnAfterReset p s
  | .drainComplete ch => Sys2Proof.Machine.execDrainComplete ch s
  | .chipSelectRise p dataInCut => Sys2Proof.Machine.execChipSelectRise p dataInCut s

end Sys2Proof.Machine
end

