-- ==== Sys2Proof/Safety.lean ====
section
/-! DEFINITION. The words in which the laws of the manual are stated: what it is for a command to be taken and
answered, what an event leaves as it was, and the laws that hold of every state a run goes through. -/

namespace Sys2Proof.Machine

/-! ## A command taken and answered (R163) -/

/-- The controller of port p takes the command c next: the part runs, no earlier command is in progress, and c, not
marked malformed, heads the command queue. -/
def takesNext (s : State) (p : PortId) (c : Command) : Prop :=
  s.phase = .ready ∧ (s.port p).busy = none ∧ (s.port p).link.commands.head? = some c ∧ c.malformed = false

/-- `takesNext` for a command that needs the table: nothing that the port handed over earlier still waits (R25). -/
def takesNextAtTable (s : State) (p : PortId) (c : Command) : Prop :=
  takesNext s p c ∧ (s.port p).record.state = .present ∧ (s.port p).toTable = []

/-- The link interface once the command at the head of its queue has left it (R163). -/
def Link.popped (l : Link) : Link := { l with commands := l.commands.tail }

/-- The link interface once the command c at the head of its queue has left it and one response, with c's tag and code,
has joined the tail of the response queue (R163). -/
def Link.answering (l : Link) (c : Command) (status : Status) (results : List Byte) : Link :=
  { l with commands := l.commands.tail, responses := l.responses ++ [⟨c.tag, c.code, status, results⟩] }

/-- The head command of port p is c and is answered. -/
def answered (p : PortId) (c : Command) (status : Status) (results : List Byte) (s t : State) : Prop :=
  (t.port p).link = (s.port p).link.answering c status results

/-- The row that takes a command of a given code (spec/opcode_table.json; CLOSE and FETCH have two rows each, by their
option and mode byte). -/
def rowFor (p : PortId) (c : Command) : Option Instr :=
  match c.code.toNat with
  | 0x10 => some (.attach p) | 0x11 => some (.detach p) | 0x12 => some (.checkin p) | 0x13 => some (.pause p)
  | 0x14 => some (.resume p) | 0x15 => some (.portQuery p) | 0x16 => some (.eventEnable p) | 0x17 => some (.eventRead p)
  | 0x20 => some (.define p) | 0x21 => some (.lookup p)
  | 0x22 => some (if c.params[1]? = some 1 then .closeForce p else .close p)
  | 0x23 => some (.purge p) | 0x24 => some (.modify p) | 0x25 => some (.channelQuery p)
  | 0x30 => some (.subscribe p) | 0x31 => some (.unsubscribe p) | 0x32 => some (.subModify p) | 0x33 => some (.subQuery p)
  | 0x40 => some (.post p) | 0x41 => some (.stage p) | 0x42 => some (.commit p) | 0x43 => some (.discard p)
  | 0x50 => some (if c.params[1]? = some 1 then .fetchConsume p else .fetchPeek p)
  | 0x51 => some (.skip p) | 0x60 => some (.openPost p) | 0x61 => some (.openFetch p) | 0x62 => some (.streamEnd p)
  | 0x63 => some (.streamStop p) | 0x64 => some (.streamQuery p)
  | _ => none

/-- The parameters of a command lie in the ranges its chapter gives (R163 check 3). -/
def inRange (c : Command) : Bool :=
  match c.code.toNat with
  | 0x10 => (parseAttach c.params).isSome | 0x13 => (parsePause c.params).isSome
  | 0x16 => (parseEventEnable c.params).isSome
  | 0x20 => (parseDefine c.params).isSome | 0x21 => (parseLookup c.params).isSome
  | 0x22 => (parseClose c.params).isSome | 0x23 => (parseChannel c.params).isSome
  | 0x24 => (parseModify c.params).isSome | 0x25 => (parseChannel c.params).isSome
  | 0x30 => (parseSubscribe c.params).isSome | 0x31 => (parseChannel c.params).isSome
  | 0x32 => (parseSubModify c.params).isSome | 0x33 => (parseSubQuery c.params).isSome
  | 0x40 => (parsePost c.params).isSome | 0x41 => (parsePost c.params).isSome
  | 0x50 => (parseFetch c.params).isSome | 0x51 => (parseSkip c.params).isSome
  | 0x60 => (parseOpenPost c.params).isSome | 0x61 => (parseOpenFetch c.params).isSome
  | _ => c.params.isEmpty

/-! ## What stays as it was -/

/-- The port with the XREQ drive and the burst progress of another. -/
def PortState.withXreqOf (x y : PortState) : PortState :=
  { x with stream := { x.stream with xreq := y.stream.xreq, progress := y.stream.progress } }

/-- The port with the event queue and the lost count of another. -/
def PortState.withEventsOf (x y : PortState) : PortState := { x with events := y.events, lost := y.lost }

/-- The port with the link interface of another. -/
def PortState.withLinkOf (x y : PortState) : PortState := { x with link := y.link }

/-- Port q is as it was, but that its controller may have evaluated XREQ (R126). -/
def portKept (q : PortId) (s t : State) : Prop := t.port q = (s.port q).withXreqOf (t.port q)

/-- Port q is as it was, but for XREQ and for the events it accepted. -/
def portKeptButEvents (q : PortId) (s t : State) : Prop :=
  t.port q = ((s.port q).withXreqOf (t.port q)).withEventsOf (t.port q)

/-- Port q is as it was, but for XREQ and for its link interface. -/
def portKeptButLink (q : PortId) (s t : State) : Prop :=
  t.port q = ((s.port q).withXreqOf (t.port q)).withLinkOf (t.port q)

/-- Port q is as it was, but for XREQ, for the events it accepted and for its link interface. -/
def portKeptButEventsAndLink (q : PortId) (s t : State) : Prop :=
  t.port q = (((s.port q).withXreqOf (t.port q)).withEventsOf (t.port q)).withLinkOf (t.port q)

/-- A subscription with its effective mode left out. -/
def Sub.modeless (x : Sub) : Sub := { x with fan := x.fan.map fun f => { f with effective := .lossy } }

/-- The channel is as it was, but that subscriptions may have been promoted (R53). -/
def chanKept (ch : ChanId) (s t : State) : Prop :=
  { t.chan ch with subs := (s.chan ch).subs } = s.chan ch
    ∧ ∀ p, ((t.chan ch).sub p).map Sub.modeless = ((s.chan ch).sub p).map Sub.modeless

/-- The channels other than ch and the presence marks are as they were. -/
def otherChansKept (ch : ChanId) (s t : State) : Prop :=
  (∀ d, d ≠ ch → t.chan d = s.chan d) ∧ ∀ q, t.mark q = s.mark q

/-- The records other than r are as they were. -/
def otherRecordsKept (r : RecId) (s t : State) : Prop := ∀ o, o ≠ r → t.record o = s.record o

/-- The tick counter, the start-up phase, the device's pins and the commands that wait are as they were. -/
def deviceKept (s t : State) : Prop :=
  t.tick = s.tick ∧ t.phase = s.phase ∧ t.resetLow = s.resetLow ∧ t.powerHold = s.powerHold ∧ t.pending = s.pending

/-- Nothing outside port p changed. -/
def onlyPort (p : PortId) (s t : State) : Prop :=
  t.store = s.store ∧ t.table = s.table ∧ deviceKept s t ∧ ∀ q, q ≠ p → t.port q = s.port q

/-- Every byte of the pool reads as it did, and the stored check codes are as they were (R2). -/
def poolKept (s t : State) : Prop :=
  (∀ a, t.store.pool.read a = s.store.pool.read a) ∧ t.store.codes = s.store.codes

/-- A write has touched the given blocks: the stored check code of each agrees with its contents, and that of every other
block is as it was (R2, R17). -/
def codesWritten (blocks : List BlockId) (s t : State) : Prop :=
  (∀ b ∈ blocks, t.store.blockAgrees b = true)
    ∧ ∀ b, b ∉ blocks → (t.store.codes.find? fun e => e.1 == b) = s.store.codes.find? fun e => e.1 == b

/-- The outcome is a next state: no fault, no refusal. -/
def completes (o : Host.Outcome State Fault Refusal) : Prop := ∃ t, o = .next t

/-- The frame of a table event at channel ch: the other channels, the presence marks and the device are as they were;
the other ports took at most events; port p took at most events and an answer. -/
def tableEventKept (p : PortId) (ch : ChanId) (s t : State) : Prop :=
  otherChansKept ch s t ∧ deviceKept s t ∧ (∀ q, q ≠ p → portKeptButEvents q s t) ∧ portKeptButEventsAndLink p s t

/-- What dropping port p from the pending readers makes of a SEALED log record: it stays while a reader is left, and else
it is freed, or withdrawn when a stream read holds it (R48, R11). -/
def readerDropped (p : PortId) (x y : Record) : Prop :=
  if erasePort (x.pending.getD 0) p ≠ 0 then y = { x with pending := some (erasePort (x.pending.getD 0) p) }
  else if x.holders = 0 then y = {}
  else y = { x with pending := some 0, state := .withdrawn }

/-- What a retirement makes of a SEALED record: FREE when nothing holds it, else WITHDRAWN (R11). -/
def retired (x y : Record) : Prop := if x.holders = 0 then y = {} else y = { x with state := .withdrawn }

/-- What abandoning a port's claim makes of a SEALED record: unclaimed, with one redelivery more, or retired at the third
abandonment (R72, R73). -/
def claimAbandoned (x y : Record) : Prop :=
  if x.redeliveries < 2 then y = { x with claimant := none, redeliveries := x.redeliveries + 1 }
  else retired { x with claimant := none } y

/-- The effective mode that a requested mode and the blocking bound give (R51, R52). -/
def modeUnder (m : ReqMode) (bound : Prop) [Decidable bound] : EffMode :=
  if m = .lossy then .lossy else if bound then .blocking else .deferred

/-- A frame of the given bytes has ended its transaction: chip-select is high, FFh was driven after the status byte, the
last-frame result is the given one, or stays, and the command queue is `commands` (R158, R159). -/
def frameEnded (p : PortId) (bytes : List Byte) (result : Option FrameResult) (commands : List Command) (s t : State) :
    Prop :=
  (t.port p).csLow = false
    ∧ (t.port p).link = { (s.port p).link with
        commands := commands
        result := result.getD (s.port p).link.result
        transaction := .idle
        rx := bytes
        tx := (s.port p).link.tx ++ List.replicate (bytes.length - 1) 0xFF }

/-- The link of port p takes the frame that comes: chip-select fell while READY was 1, and no frame has acted since (R158,
R169). -/
def takesFrame (s : State) (p : PortId) : Prop := s.phase = .ready ∧ (s.port p).link.transaction = .begun

/-- The link of port p refuses the frame that comes: READY is 0, or was 0 when chip-select fell (R169; log 21). -/
def refusesFrame (s : State) (p : PortId) : Prop :=
  (s.phase ≠ .ready ∧ (s.port p).link.transaction = .begun) ∨ (s.port p).link.transaction = .early

/-- The bytes of a record's payload from offset k on read as `data`, and every other byte of the pool reads as it did. -/
def chunkWritten (chain : List BlockId) (k : Nat) (data : List Byte) (s t : State) : Prop :=
  payloadBytes t.store.pool chain k data.length = data
    ∧ ∀ a, (∀ i, i < data.length → payloadAddr chain (k + i) ≠ some a) → t.store.pool.read a = s.store.pool.read a

/-- A notice of port p was taken: the port's presence mark is the given one and no other mark changed, the rest of what
the port handed to the table still waits, and no byte of the pool changed (R45, R25). -/
def noticeTaken (p : PortId) (mark : Mark) (rest : List TableMsg) (s t : State) : Prop :=
  t.mark p = mark ∧ (∀ q, q ≠ p → t.mark q = s.mark q) ∧ (t.port p).toTable = rest ∧ deviceKept s t ∧ poolKept s t

/-- The sequences that the entries of a group take, in staging order: each the next sequence of its channel, which the
earlier entries on the channel have advanced (R99, R94). `next` gives the channels' next sequences before the group. -/
def groupSequences (next : ChanId → Half) : List (RecId × ChanId) → List Half
  | [] => []
  | e :: es => next e.2 :: groupSequences (fun ch => if ch = e.2 then nextSequence (next ch) else next ch) es

/-- The record's expiry timer is running, and the tick count equals its deadline (R20). -/
def expiryDue (now : TickCount) (x : Record) : Prop := x.state = .sealed ∧ x.fired = false ∧ x.deadline = some now

/-- The drain condition holds of a channel (R37). -/
def drained (c : Channel) : Prop := c.state = .draining ∧ c.log = [] ∧ c.reserved = 0 ∧ c.withdrawn = 0

/-- The port has a record of the event on its queue, or the queue was full and the event is counted as lost (R152,
R153). -/
def told (q : PortState) (e : Event) : Prop :=
  (∃ x ∈ q.events, x.kind = e.kind ∧ x.subject = e.subject ∧ (e.reason.isSome = true → x.reason = e.reason)
      ∧ (e.sequence.isSome = true → x.sequence = e.sequence))
    ∨ (16 ≤ q.events.length ∧ 0 < q.lost)

/-- Port p is the only pending reader of the record (R48). -/
def onlyReader (p : PortId) (x : Record) : Bool := x.lists p && erasePort (x.pending.getD 0) p == 0

/-- The log messages that leave a channel when port p leaves it: on FANOUT those that list p alone (R48), on QUEUE those
it claims for the third time (R73). -/
def leavingWith (s : State) (ch : ChanId) (p : PortId) : List RecId :=
  (s.chan ch).log.filter fun r =>
    match (s.chan ch).kind with
    | some .fanout => onlyReader p (s.record r)
    | some .queue => (s.record r).claimant == some p && decide (2 ≤ (s.record r).redeliveries)
    | _ => false

/-- The channel once the records of a list have left its log, each retired in the store as it stands in s: those held
count as withdrawn, the blocks of the others are given back (R11, R29). -/
def Channel.without (c : Channel) (s : State) (gone : List RecId) : Channel :=
  { c with
    log := c.log.filter fun r => !gone.contains r
    withdrawn := c.withdrawn + (gone.filter fun r => (s.record r).holders != 0).length
    blocksInUse := c.blocksInUse
      - ((gone.filter fun r => (s.record r).holders == 0).map fun r => (s.record r).chain.length).sum }

/-- An event that began in s leaves the channel as c, subscriptions perhaps promoted (R53); or, where the drain condition
holds of c, UNUSED, with CHANNEL_GONE raised to its subscribers (R37, R38). -/
def settledTo (ch : ChanId) (c : Channel) (s t : State) : Prop :=
  (drained c → t.chan ch = {} ∧ ∀ q, (c.sub q).isSome = true → (s.port q).accepts (chanEvent .channelGone ch) = true →
      told (t.port q) (chanEvent .channelGone ch))
    ∧ (¬ drained c → { t.chan ch with subs := c.subs } = c
      ∧ ∀ q, ((t.chan ch).sub q).map Sub.modeless = (c.sub q).map Sub.modeless)

/-- The condition that a channel's kind gives for EDGE before a seal: on FANOUT the port's lag is 0 (R57), on QUEUE every
message of the log is claimed (R68), on LATEST the value is the one the subscription has seen (R81). -/
def edgeHolds (s : State) (ch : ChanId) (q : PortId) (sub : Sub) : Prop :=
  match (s.chan ch).kind with
  | some .fanout => lag s ch q = 0
  | some .queue => ∀ o ∈ (s.chan ch).log, (s.record o).claimant ≠ none
  | some .latest => ∀ o ∈ (s.chan ch).log, sub.seen = (s.record o).sequence
  | none => False

/-- A seal on the channel, taken in s, raises ARRIVAL to port q: its subscription is ACTIVE and its notify setting calls
for it (R57, R68, R81). -/
def sealCalls (s : State) (ch : ChanId) (q : PortId) : Prop :=
  ∃ sub ∈ (s.chan ch).sub q, sub.suspended = false
    ∧ (sub.notify = .each ∨ (sub.notify = .edge ∧ edgeHolds s ch q sub))

/-- A seal of n messages on the FANOUT channel, taken in s, takes port q past its limit: q is ACTIVE there, and its oldest
messages are skipped (R50). -/
def sealsSkip (n : Nat) (s : State) (ch : ChanId) (q : PortId) : Prop :=
  (s.chan ch).kind = some .fanout ∧ ∃ sub ∈ (s.chan ch).sub q, sub.suspended = false
    ∧ ∃ f ∈ sub.fan, f.limit < lag s ch q + n

/-- What the seal of record r under a sequence does to the channel's subscribers and its other messages: ARRIVAL to the
ports it calls (R57, R68, R81); on FANOUT each ACTIVE port's lag grows by 1 up to its limit, and a port at its limit
loses its oldest message with an overrun and OVERRUN (R46, R50, R54); on LATEST the earlier value is retired, and a seen
sequence equal to the new one is forgotten (R77, R78); every other record stays. -/
def sealDelivered (ch : ChanId) (r : RecId) (seq : Half) (s t : State) : Prop :=
  (∀ q, sealCalls s ch q → (s.port q).accepts (arrivalEvent ch seq) = true → told (t.port q) (arrivalEvent ch seq))
    ∧ (∀ q, sealsSkip 1 s ch q →
        ((s.port q).accepts (chanEvent .overrun ch) = true → told (t.port q) (chanEvent .overrun ch))
        ∧ ∀ o, (listed s ch q).head? = some o → (t.record o).lists q = false)
    ∧ ((s.chan ch).kind = some .fanout → ∀ q, ∀ sub ∈ (s.chan ch).sub q, sub.suspended = false → ∀ f ∈ sub.fan,
        lag s ch q ≤ f.limit →
        lag t ch q = min (lag s ch q + 1) f.limit
        ∧ ((t.chan ch).sub q).map Sub.overrun =
            some (if lag s ch q = f.limit then min 255 (sub.overrun + 1) else sub.overrun))
    ∧ ((s.chan ch).kind = some .latest → (∀ o ∈ (s.chan ch).log, retired (s.record o) (t.record o))
        ∧ ∀ q, ∀ sub ∈ (s.chan ch).sub q,
            (t.chan ch).sub q = some { sub with seen := if sub.seen = some seq then none else sub.seen })
    ∧ ∀ o, o ≠ r → ((s.chan ch).kind = some .latest → o ∉ (s.chan ch).log) →
        (∀ q, sealsSkip 1 s ch q → (listed s ch q).head? ≠ some o) → t.record o = s.record o

/-- Port q is the last of a record's holders in ascending port number: the one whose release by a forced close frees it
(R39 step 3). -/
def lastHolder (q : PortId) (x : Record) : Bool :=
  inSet x.holders q && allPorts.all fun o => !(inSet x.holders o && decide (q < o))

/-- What the request of a completed command made for its controller, as the port shows it: an admitted record staged or
being written, or a hold being read (R146). -/
def madeFor (q : PortState) : Made :=
  match q.staging, q.stream.state, q.stream.record, q.stream.channel with
  | [.live r ch], _, _, _ => .admitted r ch
  | _, .writing, some r, some ch => .admitted r ch
  | _, .reading, some r, _ => .held r
  | _, _, _, _ => .nothing

/-- Room of an open-ended write of n bytes so far into a record of the given number of blocks: the lesser of 4096 - n and
the unfilled bytes of the last block plus 64 times the blocks that quota, free block list and the chain's limit of 64
still allow (R126). -/
def roomFor (quotaLeft free entries n : Nat) : Nat :=
  min (4096 - n) (64 * entries - n + 64 * min quotaLeft (min free (64 - entries)))

/-! ## Events and departures -/

/-- What the PEER event of a departure or an attachment of port p says (R147). -/
def peerEvent (p : PortId) (why : Reason) : Event := { kind := .peer, subject := p.val, reason := some why }

/-- The abort requests a departure hands to the table: for the record of an open stream write, then for each live staged
entry in staging order (R102, R131). -/
def departureAborts (q : PortState) : List TableMsg :=
  (match q.stream.state, q.stream.record, q.stream.channel with
    | .writing, some r, some ch => [TableMsg.abort r ch]
    | _, _, _ => [])
  ++ q.staging.filterMap fun e => match e with
    | .live r ch => some (TableMsg.abort r ch)
    | .void _ => none

/-- The release a departure hands to the store, for the record of an open stream read (R131). -/
def departureReleases (q : PortState) : List RecId :=
  match q.stream.state, q.stream.record, q.stream.channel with
  | .reading, some r, some _ => [r]
  | .readDone, some r, some _ => [r]
  | _, _, _ => []

/-- The commands that wait, each answered with a status (R148). -/
def waitingAnswers (cs : List Command) (status : Status) : List Response := cs.map fun c => ⟨c.tag, c.code, status, []⟩

/-! ## The laws of the ports -/

/-- A PRESENT or PAUSED port's debt lies between -8 and +8 (section 8.3). -/
def debtLaw (s : State) : Prop :=
  ∀ p, (s.port p).record.state = .present ∨ (s.port p).record.state = .paused →
    -8 ≤ (s.port p).record.debt ∧ (s.port p).record.debt ≤ 8

/-- Commands not yet answered plus responses not yet read never exceed 8 (section 10.4). -/
def slotLaw (s : State) : Prop := ∀ p, (s.port p).slotsInUse ≤ 8

/-- An event queue holds at most 16 records, no two of one kind and subject, with counts 1 to 255; the lost count is at
most 255 (section 9.1, R150, R153). -/
def eventLaw (s : State) : Prop :=
  ∀ p, (s.port p).events.length ≤ 16 ∧ ((s.port p).events.map fun e => (e.kind, e.subject)).Nodup
    ∧ (∀ e ∈ (s.port p).events, 1 ≤ e.count ∧ e.count ≤ 255) ∧ (s.port p).lost ≤ 255

/-- A staging list holds at most 8 entries (R97). -/
def stagingLaw (s : State) : Prop := ∀ p, (s.port p).staging.length ≤ 8

/-- Outside open-ended writes, XREQ is asserted exactly while the ready condition holds, paced is clear and no pause or
resume holds it back (R126, R134). -/
def xreqLaw (s : State) : Prop :=
  ∀ p, (s.port p).stream.openWrite = false →
    (s.port p).stream.xreq = xreqCondition s.store s.table (s.port p)

/-! ## The laws of the store and the table -/

/-- The pool's contents are in the canonical form. -/
def poolLaw (s : State) : Prop := s.store.pool.wf = true

/-- Every block is either on the free block list exactly once or in the chain of exactly one record that is not FREE
(section 1.2). -/
def blockLaw (s : State) : Prop :=
  (s.store.free ++ allRecords.flatMap fun r => (s.record r).chain).Perm (List.finRange 512)
    ∧ ∀ r, (s.record r).state = .free → (s.record r).chain = []

/-- The records that name a channel and are in a state. -/
def namedIn (s : State) (ch : ChanId) (st : RecState) : List RecId :=
  allRecords.filter fun r => (s.record r).state == st && (s.record r).channel == some ch

/-- The blocks in the chains of the records that name a channel. -/
def chainBlocks (s : State) (ch : ChanId) : Nat :=
  ((allRecords.filter fun r => (s.record r).channel == some ch).map fun r => (s.record r).chain.length).sum

/-- A record's own fields agree with its state: a FREE record has the values of R23, every other one names its channel
and its origin, a FILLING one is not held (R14), a SEALED or WITHDRAWN one has its sequence (R9), and a WITHDRAWN one is
held (R5, R10, R11, R13). -/
def recordFits (x : Record) : Prop :=
  (x.state = .free → x = {}) ∧ (x.state ≠ .free → x.channel.isSome = true ∧ x.origin.isSome = true)
    ∧ (x.state = .filling → x.holders = 0)
    ∧ (x.state = .sealed ∨ x.state = .withdrawn → x.sequence.isSome = true)
    ∧ (x.state = .withdrawn → x.holders ≠ 0)

/-- A channel agrees with the store (R27, R29): its log holds the SEALED records that name it, once each; reserved,
withdrawn and blocks in use count the records and blocks that name it; blocks in use is within the quota; and an UNUSED
channel has the values of R27. -/
def channelFits (s : State) (ch : ChanId) : Prop :=
  (s.chan ch).log.Nodup
    ∧ (∀ r, r ∈ (s.chan ch).log ↔ (s.record r).state = .sealed ∧ (s.record r).channel = some ch)
    ∧ (s.chan ch).reserved = (namedIn s ch .filling).length
    ∧ (s.chan ch).withdrawn = (namedIn s ch .withdrawn).length
    ∧ (s.chan ch).blocksInUse = chainBlocks s ch
    ∧ (s.chan ch).blocksInUse ≤ (s.chan ch).quota
    ∧ ((s.chan ch).state = .unused → s.chan ch = {})

/-- The channel table and the message store agree (R29). -/
def tableLaw (s : State) : Prop := (∀ r, recordFits (s.record r)) ∧ ∀ ch, channelFits s ch

/-- Log plus reserved within the depth on FANOUT and QUEUE; at most one value and four reservations on LATEST (section
5.1). -/
def depthLaw (s : State) : Prop :=
  ∀ ch, ((s.chan ch).kind = some .fanout ∨ (s.chan ch).kind = some .queue →
      (s.chan ch).log.length + (s.chan ch).reserved ≤ (s.chan ch).depth)
    ∧ ((s.chan ch).kind = some .latest → (s.chan ch).log.length ≤ 1 ∧ (s.chan ch).reserved ≤ 4)

/-- No channel's next sequence is 0 (R94). -/
def sequenceLaw (s : State) : Prop := ∀ ch, (s.chan ch).nextSeq ≠ 0

end Sys2Proof.Machine
end

