-- ==== Sys2Proof/Certificates/Slice0/Obligations.lean ====
section
/-! DEFINITION. The statements for the provers. A statement that names the parameters of a command takes them from the
bytes of the queue entry by the parse function of its chapter; `told`, `answered`, `portKept` and the other words are
those of Sys2Proof/Safety.lean. -/

open Sys2Proof Sys2Proof.Machine

/-! ## The step -/

/-- A step takes the command at the front of the queue and runs it on the state with the queue's rest. -/
def Obligations.StepRunsFrontCommand : Prop :=
  ∀ (s : State) (c : Instr) (rest : List Instr),
    s.pending = c :: rest → step s = exec c { s with pending := rest }

/-- A step always answers a next state: on an empty queue the part idles (the model's choice, log 2), and otherwise the
front command leaves the queue, whatever command it is and whatever the state (00 section 4: no parameter value leaves the
part in an unspecified state); no command puts commands on the queue. -/
def Obligations.StepTakesOneCommand : Prop :=
  ∀ (s : State), ∃ t, step s = .next t ∧ (s.pending = [] → t = s) ∧ t.pending = s.pending.tail

/-! ## Laws kept by every step -/

/-- Every step keeps each of these bounds: a PRESENT or PAUSED port's debt between -8 and +8 (section 8.3), at most 8 slots
in use (section 10.4), at most 8 staged entries (R97), the event queue law (section 9.1, R150, R153), and no next sequence
of 0 (R94). -/
def Obligations.QueueAndCountBoundsKept : Prop :=
  ∀ (s t : State), step s = .next t →
    (debtLaw s → debtLaw t) ∧ (slotLaw s → slotLaw t) ∧ (stagingLaw s → stagingLaw t) ∧ (eventLaw s → eventLaw t)
      ∧ (sequenceLaw s → sequenceLaw t)

/-- The pool's contents stay in the canonical form. -/
def Obligations.PoolFormKept : Prop :=
  ∀ (s t : State), poolLaw s → step s = .next t → poolLaw t

/-- Every block stays on the free block list once or in one chain, never both and never neither (section 1.2). -/
def Obligations.BlockLawKept : Prop :=
  ∀ (s t : State), blockLaw s → step s = .next t → blockLaw t

/-- The counts of the channel table and the logs stay in step with the store's records (R29). -/
def Obligations.TableLawKept : Prop :=
  ∀ (s t : State), tableLaw s → step s = .next t → tableLaw t

/-- Log plus reserved never passes the depth, and a LATEST channel never passes one value and four reservations
(section 5.1). -/
def Obligations.DepthLawKept : Prop :=
  ∀ (s t : State), tableLaw s → depthLaw s → step s = .next t → depthLaw t

/-- Outside open-ended writes, XREQ is asserted exactly while the ready condition holds, paced is clear and no pause or
resume holds it back (R126, R134). -/
def Obligations.XreqLawKept : Prop :=
  ∀ (s t : State), xreqLaw s → step s = .next t → xreqLaw t

/-- After reset every law holds. -/
def Obligations.LawsHoldAtReset : Prop :=
  debtLaw State.reset ∧ slotLaw State.reset ∧ eventLaw State.reset ∧ stagingLaw State.reset ∧ poolLaw State.reset
    ∧ blockLaw State.reset ∧ tableLaw State.reset ∧ depthLaw State.reset ∧ sequenceLaw State.reset
    ∧ xreqLaw State.reset

/-! ## Reset, start-up and the tick -/

/-- DEVICE_RESET and POWER_ON_RESET: every block takes its reset values whatever the part was doing; the levels of PRST
and chip-select and the commands that wait stay. That both frame buffers are empty and no transaction is in progress
is the model's choice, log 4 (R168, R23, R27, R45, R117, R136, R157, R166). -/
def Obligations.DeviceResetSetsResetValues : Prop :=
  ∀ (s : State) (i : Instr), i = .deviceReset ∨ i = .powerOnReset →
    ∃ t, exec i s = .next t ∧
      t.store.free = List.finRange 512 ∧ (∀ r, t.record r = {}) ∧ (∀ a, t.store.pool.read a = 0)
      ∧ t.store.codes = [] ∧ t.store.notices = []
      ∧ (∀ ch, t.chan ch = {}) ∧ (∀ p, t.mark p = .absent)
      ∧ (∀ p, t.port p = { prstLow := (s.port p).prstLow, csLow := (s.port p).csLow })
      ∧ t.tick = 0 ∧ t.phase = .held ∧ t.pending = s.pending
      ∧ t.resetLow = (if i = .deviceReset then true else s.resetLow)
      ∧ t.powerHold = (if i = .deviceReset then s.powerHold else true)

/-- DEVICE_RESET_RELEASE: the later of the two releases begins pool initialisation, the tick counter starting from 0 and
every byte of the pool 00h in that same step (DEDUCED, log 22); the earlier one changes nothing but its own hold
(R168, R169).

POOL_INITIALISATION_DONE: READY becomes 1 on all four ports in the same event, and a transaction begun before it takes
no frame; nothing else changes (R169; the mark on the transaction: log 21).

TICK: the expiry timers still due at the count that ends fire (R20; when, is the model's reading, log 7); the counter
advances by 1, wrapping; the period timer of each PRESENT port and the pause timer of each PAUSED port count down by
1, the one below 0, the other to 0 (logs 6, 8); nothing else changes (R138, R170). -/
def Obligations.StartUpAndTick : Prop :=
  (∀ (s : State) (source : ResetSource), s.phase = .held →
      ∃ t, exec (.deviceResetRelease source) s = .next t ∧
        t.resetLow = (if source = .resetPin then false else s.resetLow)
        ∧ t.powerHold = (if source = .powerDetector then false else s.powerHold)
        ∧ (t.resetLow = false ∧ t.powerHold = false →
            t.phase = .initialising ∧ t.tick = 0 ∧ (∀ a, t.store.pool.read a = 0) ∧ t.store.codes = [])
        ∧ (t.resetLow = true ∨ t.powerHold = true → t.phase = .held ∧ t.tick = s.tick ∧ t.store = s.store)
        ∧ t.table = s.table ∧ t.ports = s.ports ∧ t.store.recs = s.store.recs ∧ t.store.free = s.store.free
        ∧ t.pending = s.pending)
  ∧ (∀ (s : State), s.phase = .initialising →
      ∃ t, exec .poolInitialisationDone s = .next t ∧
        t = { s with phase := .ready, ports := t.ports }
        ∧ (∀ p, t.port p = { s.port p with link := { (s.port p).link with
            transaction := if (s.port p).link.transaction = .begun then .early else (s.port p).link.transaction } })
        ∧ ∀ p, (statusByte t p).getLsbD 7 = true ∧ (statusByte s p).getLsbD 7 = false)
  ∧ (∀ (s : State), s.phase ≠ .held →
      (∀ r, expiryDue s.tick (s.record r) → (s.record r).channel.isSome = true ∧ (s.record r).sequence.isSome = true) →
      ∃ t, exec .tick s = .next t ∧
        t.tick = s.tick + 1 ∧ t.table = s.table ∧ t.phase = s.phase ∧ t.resetLow = s.resetLow
        ∧ t.powerHold = s.powerHold ∧ t.pending = s.pending
        ∧ (∀ r, expiryDue s.tick (s.record r) → t.record r = { s.record r with fired := true })
        ∧ (∀ r, ¬ expiryDue s.tick (s.record r) → t.record r = s.record r)
        ∧ (∃ sent : List RecId, sent.Nodup ∧ (∀ r, r ∈ sent ↔ expiryDue s.tick (s.record r))
            ∧ t.store.notices = s.store.notices ++ sent.map fun r =>
                ⟨r, (s.record r).channel.getD 0, (s.record r).sequence.getD 0⟩)
        ∧ t.store.pool = s.store.pool ∧ t.store.codes = s.store.codes ∧ t.store.free = s.store.free
        ∧ ∀ p, t.port p = { s.port p with record := { (s.port p).record with
            periodTimer := if (s.port p).record.state = .present then (s.port p).record.periodTimer.map (· - 1)
              else (s.port p).record.periodTimer
            pauseTimer := if (s.port p).record.state = .paused then (s.port p).record.pauseTimer.map (· - 1)
              else (s.port p).record.pauseTimer } })

/-! ## The controller's front door (R137, R163) -/

/-- A command that the port's state does not take is answered with the state, changes nothing and reaches no other block,
also while a request that a port reset left waits for the same row (the model's choice, log 40) (R137).

A parameter out of its range, in a state that takes the command, is answered LIMIT and changes nothing (R163). A CLOSE
with an undefined option byte is taken by the CLOSE row and a FETCH with an undefined mode byte by the FETCH_PEEK row
(the model's choice, log 14).

The ranges are those of the owning chapters: ATTACH, PAUSE and EVENT_ENABLE (R139, R142, R155), DEFINE, LOOKUP, CLOSE
and MODIFY (R32, R34, R35, R42), SUBSCRIBE, SUB_MODIFY and SUB_QUERY (R62, R64, R65), POST and STAGE (R84), FETCH and
SKIP (R103, R111), OPEN_POST and OPEN_FETCH (R118, R119), and a channel of 0 to 15 (R163). That a byte of present bits
in MODIFY or SUB_MODIFY with a bit that its layout does not name lies outside its range is deduced (log 24).

MALFORMED_COMMAND: a command marked malformed is answered MALFORMED with no results and its code echoed, whatever the
port's state, and changes nothing else (R163 check 1). -/
def Obligations.CommandChecksAnswerFirst : Prop :=
  (∀ (s : State) (p : PortId) (c : Command) (i : Instr) (st : Status),
      takesNext s p c → rowFor p c = some i →
      ((s.port p).record.state = .detached ∧ st = .detached ∧ c.code ≠ 0x10 ∧ c.code ≠ 0x15)
        ∨ ((s.port p).record.state = .paused ∧ st = .paused ∧ c.code ≠ 0x14 ∧ c.code ≠ 0x17 ∧ c.code ≠ 0x15)
        ∨ ((s.port p).record.state = .lapsed ∧ st = .lapsed ∧ c.code ≠ 0x10 ∧ c.code ≠ 0x17 ∧ c.code ≠ 0x15) →
      ∃ t, exec i s = .next t ∧ answered p c st [] s t ∧ onlyPort p s t ∧ portKeptButLink p s t)
  ∧ (∀ (s : State) (p : PortId) (c : Command) (i : Instr),
      takesNext s p c → rowFor p c = some i → inRange c = false →
      (s.port p).record.state = .present
        ∨ (c.code = 0x10 ∧ ((s.port p).record.state = .detached ∨ (s.port p).record.state = .lapsed)) →
      ∃ t, exec i s = .next t ∧ answered p c .limit [] s t ∧ onlyPort p s t ∧ portKeptButLink p s t)
  ∧ (∀ (tag a b d e f g h k m : Byte) (name payload : List Byte),
      let ok := fun (code : Byte) (params : List Byte) => inRange ⟨tag, code, params, false⟩ = true
      let num := fun (lo hi : Byte) => lo.toNat + 256 * hi.toNat
      let nonEmpty := fun (x : Byte) => 1 ≤ x.toNat ∧ x.toNat ≤ 15
      let options := fun (x lo hi : Byte) => x.toNat ≤ 3 ∧ (x.getLsbD 1 = true → 1 ≤ num lo hi ∧ num lo hi ≤ 60000)
      (ok 0x10 [a, b, d, e, f] ↔ 1 ≤ num a b ∧ num a b ≤ 1000 ∧ num d e ≤ 4095 ∧ f.toNat ≤ 1)
      ∧ (ok 0x13 [a, b] ↔ 1 ≤ num a b ∧ num a b ≤ 60000)
      ∧ (ok 0x16 [a, b, d] ↔ num a b ≤ 4095 ∧ d.toNat ≤ 1)
      ∧ (name.length = 8 →
          (ok 0x20 (name ++ [a, b, d, e, f, g]) ↔ ((∀ x ∈ name, 0x20 ≤ x.toNat ∧ x.toNat ≤ 0x7E) ∧ ∃ x ∈ name, x ≠ 0x20)
            ∧ a.toNat ≤ 2 ∧ 1 ≤ b.toNat ∧ b.toNat ≤ (if a = 2 then 1 else 64) ∧ 1 ≤ num d e ∧ num d e ≤ 512
            ∧ nonEmpty f ∧ nonEmpty g)
          ∧ (ok 0x21 name ↔ (∀ x ∈ name, 0x20 ≤ x.toNat ∧ x.toNat ≤ 0x7E) ∧ ∃ x ∈ name, x ≠ 0x20))
      ∧ (ok 0x22 [a, b] ↔ a.toNat ≤ 15 ∧ b.toNat ≤ 1)
      ∧ (ok 0x23 [a] ↔ a.toNat ≤ 15) ∧ (ok 0x25 [a] ↔ a.toNat ≤ 15) ∧ (ok 0x31 [a] ↔ a.toNat ≤ 15)
      ∧ (ok 0x24 [a, b, d, e, f, g, h] ↔ a.toNat ≤ 15 ∧ b.toNat ≤ 15
          ∧ (b.getLsbD 0 = true → 1 ≤ d.toNat ∧ d.toNat ≤ 64) ∧ (b.getLsbD 1 = true → 1 ≤ num e f ∧ num e f ≤ 512)
          ∧ (b.getLsbD 2 = true → nonEmpty g) ∧ (b.getLsbD 3 = true → nonEmpty h))
      ∧ (ok 0x30 [a, b, d, e] ↔ a.toNat ≤ 15 ∧ b.toNat ≤ 1 ∧ 1 ≤ d.toNat ∧ d.toNat ≤ 64 ∧ e.toNat ≤ 2)
      ∧ (ok 0x32 [a, b, d, e, f] ↔ a.toNat ≤ 15 ∧ b.toNat ≤ 7 ∧ (b.getLsbD 0 = true → d.toNat ≤ 1)
          ∧ (b.getLsbD 1 = true → 1 ≤ e.toNat ∧ e.toNat ≤ 64) ∧ (b.getLsbD 2 = true → f.toNat ≤ 2))
      ∧ (ok 0x33 [a, b] ↔ a.toNat ≤ 15 ∧ b.toNat ≤ 1)
      ∧ (ok 0x40 ([a, b, d, e, f, g] ++ payload) ↔ a.toNat ≤ 15 ∧ options b f g)
      ∧ (ok 0x41 ([a, b, d, e, f, g] ++ payload) ↔ a.toNat ≤ 15 ∧ options b f g)
      ∧ (ok 0x50 [a, b, d, e, f] ↔ a.toNat ≤ 15 ∧ b.toNat ≤ 1 ∧ num d e ≤ 4095 ∧ 1 ≤ f.toNat ∧ f.toNat ≤ 48)
      ∧ (ok 0x51 [a, b] ↔ a.toNat ≤ 15 ∧ 1 ≤ b.toNat ∧ b.toNat ≤ 64)
      ∧ (ok 0x60 [a, b, d, e, f, g, h, k, m] ↔ a.toNat ≤ 15 ∧ options b k m ∧ f.toNat ∈ [0, 1, 2, 4])
      ∧ (ok 0x61 [a, b, d] ↔ a.toNat ≤ 15 ∧ b.toNat ≤ 1 ∧ d.toNat ∈ [0, 1, 2, 4]))
  ∧ (∀ (s : State) (p : PortId) (c : Command),
      s.phase = .ready → (s.port p).busy = none → (s.port p).link.commands.head? = some c → c.malformed = true →
      ∃ t, exec (.malformedCommand p) s = .next t ∧
        answered p c .malformed [] s t ∧ onlyPort p s t ∧ portKeptButLink p s t)

/-! ## Port presence (chapter 8) -/

/-- ATTACH from DETACHED or LAPSED: the port becomes PRESENT with the period, the enables and debt 0, the period timer is
loaded, and the attach notice is handed to the table; the answer waits for the notice (R139).

ATTACH from PRESENT is answered ORDER and changes nothing (R139). -/
def Obligations.AttachMakesPortPresent : Prop :=
  (∀ (s : State) (p : PortId) (c : Command) (a : AttachParams),
      takesNext s p c → c.code = 0x10 → parseAttach c.params = some a →
      (s.port p).record.state = .detached ∨ (s.port p).record.state = .lapsed →
      ∃ t, exec (.attach p) s = .next t ∧
        onlyPort p s t
        ∧ t.port p = ({ s.port p with
            record := { state := .present, period := some a.period, debt := 0, periodTimer := some a.period,
                        pauseLimit := none, pauseTimer := none, checkinOwed := false,
                        enables := a.enables, attnEnable := a.attnEnable }
            busy := some c
            link := (s.port p).link.popped
            toTable := (s.port p).toTable ++ [.attachNotice true] } : PortState).withXreqOf (t.port p))
  ∧ (∀ (s : State) (p : PortId) (c : Command),
      takesNext s p c → c.code = 0x10 → inRange c = true → (s.port p).record.state = .present →
      ∃ t, exec (.attach p) s = .next t ∧ answered p c .order [] s t ∧ onlyPort p s t ∧ portKeptButLink p s t)

/-- CHECKIN in PRESENT: the debt falls by 1 and the check-in owed mark is cleared; at -8 the debt stays and CREDIT_FULL
is set; nothing else changes, the period timer included (R140).

CHECKIN from PAUSED, LAPSED and DETACHED is answered with that state and pays off no debt (R140, R137). -/
def Obligations.CheckinPaysOneBack : Prop :=
  (∀ (s : State) (p : PortId) (c : Command),
      takesNext s p c → c.code = 0x12 → c.params = [] → (s.port p).record.state = .present →
      -8 ≤ (s.port p).record.debt →
      ∃ t, exec (.checkin p) s = .next t ∧
        onlyPort p s t
        ∧ t.port p = ({ s.port p with
            record := { (s.port p).record with
              debt := if (s.port p).record.debt = -8 then -8 else (s.port p).record.debt - 1
              checkinOwed := false }
            link := (s.port p).link.answering c .ok
              (if (s.port p).record.debt = -8 then [0xF8, 1] else [BitVec.ofInt 8 ((s.port p).record.debt - 1), 0]) }
            : PortState).withXreqOf (t.port p))
  ∧ (∀ (s : State) (p : PortId) (c : Command) (st : Status),
      takesNext s p c → c.code = 0x12 →
      ((s.port p).record.state = .paused ∧ st = .paused) ∨ ((s.port p).record.state = .lapsed ∧ st = .lapsed)
        ∨ ((s.port p).record.state = .detached ∧ st = .detached) →
      ∃ t, exec (.checkin p) s = .next t ∧ answered p c st [] s t ∧ onlyPort p s t ∧ portKeptButLink p s t)

/-- PAUSE in PRESENT with no check-in owed: the period timer stops, the debt is frozen, the port is PAUSED with its limit
and timer, XREQ is deasserted, the pause notice is handed over, and the answer is the debt and the limit (R142); that
the answer does not wait for the notice is deduced (log 9).

RESUME in PAUSED: the port is PRESENT with the frozen debt, the pause timer is cancelled, the period timer is loaded
with the full period, a check-in is owed, the resume notice is handed over, and XREQ stays deasserted until the next
chip-select fall (R143, R134); that the answer does not wait for the notice is deduced (log 9).

PAUSE with a check-in owed, and RESUME from PRESENT, are answered ORDER and change nothing (R142, R143). -/
def Obligations.PauseAndResumeMoveTimers : Prop :=
  (∀ (s : State) (p : PortId) (c : Command) (limit : Nat),
      takesNext s p c → c.code = 0x13 → parsePause c.params = some limit → (s.port p).record.state = .present →
      (s.port p).record.checkinOwed = false →
      ∃ t, exec (.pause p) s = .next t ∧
        onlyPort p s t ∧ (t.port p).stream.xreq = false
        ∧ t.port p = ({ s.port p with
            record := { (s.port p).record with
              state := .paused, periodTimer := none, pauseLimit := some limit, pauseTimer := some limit }
            link := (s.port p).link.answering c .ok
              [BitVec.ofInt 8 (s.port p).record.debt, BitVec.ofNat 8 limit, BitVec.ofNat 8 (limit / 256)]
            toTable := (s.port p).toTable ++ [.pauseNotice] } : PortState).withXreqOf (t.port p))
  ∧ (∀ (s : State) (p : PortId) (c : Command) (left period : Nat),
      takesNext s p c → c.code = 0x14 → c.params = [] → (s.port p).record.state = .paused →
      (s.port p).record.pauseTimer = some left → (s.port p).record.period = some period →
      ∃ t, exec (.resume p) s = .next t ∧
        onlyPort p s t ∧ (t.port p).stream.xreq = false
        ∧ t.port p = ({ s.port p with
            record := { (s.port p).record with
              state := .present, periodTimer := some (period : Int), pauseLimit := none, pauseTimer := none,
              checkinOwed := true }
            stream := { (s.port p).stream with awaitFall := true }
            link := (s.port p).link.answering c .ok
              [BitVec.ofInt 8 (s.port p).record.debt, BitVec.ofNat 8 left, BitVec.ofNat 8 (left / 256)]
            toTable := (s.port p).toTable ++ [.resumeNotice] } : PortState).withXreqOf (t.port p))
  ∧ (∀ (s : State) (p : PortId) (c : Command) (i : Instr),
      takesNext s p c → inRange c = true → (s.port p).record.state = .present →
      (i = .pause p ∧ c.code = 0x13 ∧ (s.port p).record.checkinOwed = true) ∨ (i = .resume p ∧ c.code = 0x14) →
      ∃ t, exec i s = .next t ∧ answered p c .order [] s t ∧ onlyPort p s t ∧ portKeptButLink p s t)

/-- DETACH, steps 1 to 4: stream and staged group end, their aborts and the release are handed over ahead of the detach
notice, the port is DETACHED and its stream context takes its reset values (R145, R131, R102). -/
def Obligations.DetachEndsWorkInFlight : Prop :=
  ∀ (s : State) (p : PortId) (c : Command),
    takesNext s p c → c.code = 0x11 → c.params = [] → (s.port p).record.state = .present →
    ∃ t, exec (.detach p) s = .next t ∧
      onlyPort p s t
      ∧ t.port p = { s.port p with
          record := { (s.port p).record with state := .detached, periodTimer := none }
          stream := {}
          staging := []
          busy := some c
          link := (s.port p).link.popped
          toTable := (s.port p).toTable ++ departureAborts (s.port p) ++ [.detachNotice true]
          releases := (s.port p).releases ++ departureReleases (s.port p) }

/-- PERIOD_EXPIRY below debt 8: the debt rises by 1, the timer takes another period on top of what it stands at, 0 or
below (DEDUCED, log 6), and PRESENCE_LOW is raised to the port exactly when the debt goes from 5 to 6 (R141, R138). -/
def Obligations.PeriodExpiryRaisesDebt : Prop :=
  ∀ (s : State) (p : PortId) (left : Int) (period : Nat),
    s.phase = .ready → (s.port p).busy = none → (s.port p).record.state = .present →
    (s.port p).record.periodTimer = some left → left ≤ 0 → (s.port p).record.period = some period →
    (s.port p).record.debt < 8 →
    ∃ t, exec (.periodExpiry p) s = .next t ∧
      onlyPort p s t
      ∧ t.port p = (({ s.port p with
          record := { (s.port p).record with
            debt := (s.port p).record.debt + 1, periodTimer := some (left + period) } }
          : PortState).withXreqOf (t.port p)).withEventsOf (t.port p)
      ∧ ((s.port p).record.debt = 5 ∧ (s.port p).record.enables.getLsbD 9 = true →
          told (t.port p) { kind := .presenceLow, subject := p.val })
      ∧ ((s.port p).record.debt ≠ 5 ∨ (s.port p).record.enables.getLsbD 9 = false →
          (t.port p).events = (s.port p).events ∧ (t.port p).lost = (s.port p).lost)

/-- PERIOD_EXPIRY finding debt 8, and PAUSE_EXPIRY, lapse the port: its stream ends with outcome LAPSED, its counts
standing (DEDUCED, log 19), and STREAM_ABORTED (LAPSED) raised, its staged group ends, the waiting commands, malformed
ones among them (DEDUCED, log 29), are answered LAPSED, and the lapse notice follows the aborts (R144, R131, R102,
R148). -/
def Obligations.ExpiryLapsesPort : Prop :=
  ∀ (s : State) (p : PortId) (i : Instr) (left : Int),
    s.phase = .ready → (s.port p).busy = none →
    (i = .periodExpiry p ∧ (s.port p).record.state = .present ∧ (s.port p).record.periodTimer = some left ∧ left ≤ 0
        ∧ (s.port p).record.debt = 8)
      ∨ (i = .pauseExpiry p ∧ (s.port p).record.state = .paused ∧ (s.port p).record.pauseTimer = some 0) →
    ∃ t, exec i s = .next t ∧
      onlyPort p s t
      ∧ t.port p = (({ s.port p with
          record := { (s.port p).record with
            state := .lapsed, periodTimer := none, pauseTimer := none, pauseLimit := none }
          stream := if (s.port p).stream.state = .idle then (s.port p).stream
            else { (s.port p).stream.toIdle with xreq := false, outcome := some .lapsed }
          staging := []
          link := { (s.port p).link with
            commands := []
            responses := (s.port p).link.responses ++ waitingAnswers (s.port p).link.commands .lapsed }
          toTable := (s.port p).toTable ++ departureAborts (s.port p) ++ [.lapseNotice]
          releases := (s.port p).releases ++ departureReleases (s.port p) }
          : PortState).withXreqOf (t.port p)).withEventsOf (t.port p)
      ∧ (t.port p).stream.xreq = false
      ∧ (∀ ch, (s.port p).stream.state ≠ .idle → (s.port p).stream.channel = some ch →
          (s.port p).record.enables.getLsbD 6 = true →
          told (t.port p) { kind := .streamAborted, subject := ch.val, reason := some .streamLapsed })
      ∧ ((s.port p).stream.state = .idle → (t.port p).events = (s.port p).events ∧ (t.port p).lost = (s.port p).lost)

/-- PORT_RESET: whatever the port is doing, its controller and link take their reset values, the frame buffers empty (the
model's choice, log 4); a request already with the table (whether there is one is the row's operand, the model's
choice, log 12) stays ahead of the aborts, the release and the reset notice that the departure hands over (R146, R148,
R171).

The request that PORT_RESET finds with the table, if its operand says so: of a head command that passes checks 2 to 4
and needs the table, the command itself, or for STREAM_END the seal of its open-ended write or the end of its read; of
any other head, or none, there is no request (R146, R148, R163).

PORT_RESET before READY, or while a device reset stands, adds nothing but the pin's level and the end of the
transaction (R171; the last-frame result stays, log 34).

PRST_RELEASE: the rise of PRST changes no state but the pin's level (R146, R171).

ANSWER_RETURN_AFTER_RESET: the controller keeps nothing of what the request made: an admitted record is handed to the
table for abort, a hold to the store for release (R146).

Requests that a port reset left with the table: the row of its command takes the one at the head of the path as it
takes the same command of a PRESENT port with an IDLE context, or for the seal of a STREAM_END of an open-ended write:
the effect on store, channels and other ports is the same; what the request made goes to the answers that return, and
no response is formed (R146).

A COMMIT or DISCARD left so finds the staging list that the reset emptied: nothing is sealed and nothing freed
(DEDUCED, log 37).

An end-of-read request left so has the effect that STREAM_END has, the release being one of those handed over; where
the port's read no longer stands on the record it has none (DEDUCED, log 32). -/
def Obligations.PortResetHandsOverAndClears : Prop :=
  (∀ (s : State) (p : PortId) (handed : Bool),
      s.phase = .ready → (s.port p).prstLow = false →
      ∃ t, exec (.portReset p handed) s = .next t ∧
        onlyPort p s t
        ∧ t.port p =
          { toTable := (s.port p).toTable.map TableMsg.unawaited
              ++ (if handed then (handedRequest p s).toList.map TableMsg.request else [])
              ++ departureAborts (s.port p) ++ [.resetNotice]
            releases := (s.port p).releases ++ departureReleases (s.port p)
            returns := (s.port p).returns
            prstLow := true
            csLow := (s.port p).csLow })
  ∧ (∀ (s : State) (p : PortId),
      let q := s.port p
      let x := q.stream
      ((∀ c, ¬ takesNext s p c) → handedRequest p s = none)
      ∧ ∀ c, takesNext s p c →
        let asks := q.record.state = .present ∧ inRange c = true
          ∧ c.code ∈ [0x20, 0x21, 0x22, 0x23, 0x24, 0x25, 0x30, 0x31, 0x32, 0x33, 0x40, 0x41, 0x42, 0x43, 0x50, 0x51,
              0x60, 0x61]
          ∧ (c.code = 0x41 → q.staging.length < 8) ∧ (c.code = 0x42 ∨ c.code = 0x43 → q.staging ≠ [])
          ∧ (c.code = 0x60 ∨ c.code = 0x61 → x.state = .idle)
        let ends := q.record.state = .present ∧ inRange c = true ∧ c.code = 0x62
        let seals := ends ∧ x.state = .writing ∧ x.mode = some .openEnded ∧ 0 < x.byteCount
        (asks → handedRequest p s = some (.command c))
        ∧ (∀ r ch, x.record = some r → x.channel = some ch →
            (seals → handedRequest p s = some (.seal_ r ch))
            ∧ (ends ∧ x.state = .readDone → handedRequest p s = some (.endOfRead r ch x.consume)))
        ∧ (¬ asks → ¬ seals → ¬ (ends ∧ x.state = .readDone) → handedRequest p s = none))
  ∧ (∀ (s : State) (p : PortId) (handed : Bool),
      s.phase ≠ .ready → (s.port p).prstLow = false →
      ∃ t, exec (.portReset p handed) s = .next t ∧
        onlyPort p s t
        ∧ t.port p = { s.port p with prstLow := true, link := { (s.port p).link with transaction := .idle } })
  ∧ (∀ (s : State) (p : PortId),
      ∃ t, exec (.prstRelease p) s = .next t ∧
        onlyPort p s t ∧ t.port p = { s.port p with prstLow := false })
  ∧ (∀ (s : State) (p : PortId) (m : Made) (rest : List Made),
      (s.port p).returns = m :: rest →
      ∃ t, exec (.answerReturnAfterReset p) s = .next t ∧
        onlyPort p s t
        ∧ t.port p = { s.port p with
            returns := rest
            toTable := (s.port p).toTable ++ (match m with
              | .admitted r ch => [TableMsg.abort r ch]
              | _ => [])
            releases := (s.port p).releases ++ (match m with
              | .held r => [r]
              | _ => []) })
  ∧ (∀ (s : State) (p : PortId) (req : Request) (c : Command) (x : Stream) (i : Instr) (rest : List TableMsg),
      let attached := s.modPort p fun q => { q with
        record := { q.record with state := .present }, busy := none, toTable := [], stream := x
        link := { q.link with commands := [c] } }
      s.phase = .ready → (s.port p).toTable = .request req :: rest → (s.port p).stream = {} → (s.port p).staging = [] →
      (∀ d, takesNext s p d → rowFor p d ≠ some i) → rowFor p c = some i → c.malformed = false → inRange c = true →
      (req = .command c ∧ x = {} ∧ c.code ∈ [0x20, 0x21, 0x22, 0x23, 0x24, 0x25, 0x30, 0x31, 0x32, 0x33, 0x40, 0x41, 0x50,
          0x51, 0x60, 0x61])
        ∨ (∃ r ch, req = .seal_ r ch ∧ c.code = 0x62
            ∧ x = { state := .writing, direction := some .write, mode := some .openEnded, channel := some ch,
                    record := some r, byteCount := 1, remaining := none }) →
      ∃ t, exec i s = .next t ∧
        (∃ v, exec i attached = .next v ∧ t.store = v.store ∧ t.table = v.table ∧ (∀ q, q ≠ p → t.port q = v.port q)
          ∧ t.port p = (({ s.port p with
              toTable := rest
              returns := (s.port p).returns ++ [if req = .command c then madeFor (v.port p) else .nothing] }
              : PortState).withXreqOf (t.port p)).withEventsOf (t.port p))
        ∧ deviceKept s t)
  ∧ (∀ (s : State) (p : PortId) (c : Command) (i : Instr) (rest : List TableMsg),
      (s.port p).toTable = .request (.command c) :: rest → (s.port p).staging = [] →
      (∀ d, takesNext s p d → rowFor p d ≠ some i) → c.params = [] →
      (i = .commit p ∧ c.code = 0x42) ∨ (i = .discard p ∧ c.code = 0x43) →
      ∃ t, exec i s = .next t ∧
        onlyPort p s t
        ∧ t.port p = { s.port p with toTable := rest, returns := (s.port p).returns ++ [.nothing] })
  ∧ (∀ (s : State) (p : PortId) (r : RecId) (ch : ChanId) (consume : Bool) (rest : List TableMsg),
      let stands := (s.record r).channel = some ch
        ∧ ((s.chan ch).kind = some .queue ∧ (s.record r).state = .sealed → (s.record r).claimant = some p)
        ∧ (¬ ((s.chan ch).kind = some .queue ∧ (s.record r).state = .sealed) → inSet (s.record r).holders p = true)
      let attached := s.modPort p fun q => { q with
        record := { q.record with state := .present }, busy := none, toTable := []
        stream := { state := .readDone, channel := some ch, record := some r, consume := consume }
        link := { q.link with commands := [⟨0, 0x62, [], false⟩] } }
      s.phase = .ready → (s.port p).toTable = .request (.endOfRead r ch consume) :: rest →
      (∀ d, takesNext s p d → d.code ≠ 0x62) →
      ∃ t, exec (.streamEnd p) s = .next t ∧
        (¬ stands → t.store = s.store ∧ settledTo ch (s.chan ch) s t)
        ∧ (stands → ∃ v w, exec (.streamEnd p) attached = .next v
            ∧ exec (.release p) (t.modPort p fun q => { q with releases := [r] }) = .next w
            ∧ w.store = v.store ∧ w.table = v.table)
        ∧ otherRecordsKept r s t ∧ poolKept s t ∧ otherChansKept ch s t ∧ deviceKept s t
        ∧ (∀ q, q ≠ p → portKeptButEvents q s t)
        ∧ t.port p = (({ s.port p with toTable := rest, returns := (s.port p).returns ++ [.nothing] }
            : PortState).withXreqOf (t.port p)).withEventsOf (t.port p))

/-- PORT_QUERY in every state: the answer lists the identity and the port record in the order of R149, each field in the
width and encoding of R167, an absent field as 0 (DEDUCED, log 16), and nothing changes.

STREAM_QUERY in PRESENT: the answer lists the context in the order of R135, absent fields as 0 or FFh (DEDUCED, log
16), consume and damage bytes as they stand in a write too (DEDUCED, log 31), the room as R126 gives it, and nothing
changes. -/
def Obligations.QueriesReportPortAndStream : Prop :=
  (∀ (s : State) (p : PortId) (c : Command),
      takesNext s p c → c.code = 0x15 → c.params = [] →
      ∃ t, exec (.portQuery p) s = .next t ∧
        onlyPort p s t ∧ portKeptButLink p s t
        ∧ answered p c .ok
          ([0x3C, 0x04, 0x01, BitVec.ofNat 8 p.val, BitVec.ofNat 8 (s.port p).record.state.code]
            ++ enc2 ((s.port p).record.period.getD 0) ++ [BitVec.ofInt 8 (s.port p).record.debt]
            ++ enc2 (((s.port p).record.periodTimer.map Int.toNat).getD 0)
            ++ enc2 ((s.port p).record.pauseLimit.getD 0) ++ enc2 ((s.port p).record.pauseTimer.getD 0)
            ++ [if (s.port p).record.checkinOwed then 1 else 0] ++ enc2 (s.port p).record.enables.toNat
            ++ [if (s.port p).record.attnEnable then 1 else 0, BitVec.ofNat 8 (8 - (s.port p).slotsInUse),
                BitVec.ofNat 8 (s.port p).staging.length, BitVec.ofNat 8 (s.port p).stream.state.code,
                BitVec.ofNat 8 (s.port p).events.length, BitVec.ofNat 8 (s.port p).lost]) s t)
  ∧ (∀ (s : State) (p : PortId) (c : Command),
      let x := (s.port p).stream
      takesNext s p c → c.code = 0x64 → c.params = [] → (s.port p).record.state = .present →
      ∃ t, exec (.streamQuery p) s = .next t ∧
        onlyPort p s t ∧ portKeptButLink p s t
        ∧ (∃ openPart readPart : List Byte,
            answered p c .ok
              ([BitVec.ofNat 8 x.state.code] ++ (match x.direction with | some d => [BitVec.ofNat 8 d.code] | none => [0xFF])
                ++ (match x.mode with | some m => [BitVec.ofNat 8 m.code] | none => [0xFF])
                ++ (match x.channel with | some ch => [BitVec.ofNat 8 ch.val] | none => [0xFF])
                ++ enc2 x.byteCount ++ (match x.remaining with | some n => enc2 n | none => [0xFF, 0xFF])
                ++ [BitVec.ofNat 8 x.expected.toNat, BitVec.ofNat 8 (x.burst / 64)] ++ enc2 x.progress
                ++ encFlag x.consume ++ encFlag x.damageSeen ++ openPart ++ readPart
                ++ [BitVec.ofNat 8 (rejectionCode x.rejection), BitVec.ofNat 8 (outcomeCode x.outcome)]
                ++ enc2 (match x.outcome with | some (.sealed q) => q.toNat | _ => 0)) s t
            ∧ (x.openWrite = false → openPart = [0xFF, 0xFF, 0xFF, 0xFF])
            ∧ (∀ r ch, x.openWrite = true → x.record = some r → x.channel = some ch →
                openPart = enc2 (roomFor ((s.chan ch).quota - (s.chan ch).blocksInUse) s.store.free.length
                  (s.record r).chain.length x.byteCount) ++ enc2 (s.record r).length)
            ∧ (x.direction ≠ some .read ∨ x.record = none → readPart = [0, 0, 0, 0, 0xFF])
            ∧ (∀ r, x.direction = some .read → x.record = some r →
                readPart = enc2 ((s.record r).sequence.getD 0).toNat ++ enc2 (s.record r).length
                  ++ [if (s.record r).state = .withdrawn then 1 else 0])))

/-! ## Events (chapter 9) -/

/-- An accepted event folds into the record of its kind and subject where it stands, or is appended while the queue holds
fewer than 16 records (R152), or else is lost (R153); an event whose kind is not enabled or whose port is not PRESENT or
PAUSED is dropped (R151). -/
def Obligations.RaisedEventFoldsAppendsOrIsLost : Prop :=
  ∀ (s : State) (p : PortId) (e : Event),
    let q := s.port p
    let q' := (raise p e s).port p
    let accepted := q.record.enables.getLsbD e.kind.code = true ∧ (q.record.state = .present ∨ q.record.state = .paused)
    (¬ accepted → raise p e s = s)
    ∧ q' = q.withEventsOf q' ∧ (∀ o, o ≠ p → (raise p e s).port o = s.port o)
    ∧ (∀ (before after : List EventRecord) (x : EventRecord), accepted → q.events = before ++ x :: after →
        (∀ y ∈ before, ¬ (y.kind = e.kind ∧ y.subject = e.subject)) → x.kind = e.kind → x.subject = e.subject →
        q'.lost = q.lost
        ∧ q'.events = before ++ { x with
            count := min 255 (x.count + 1)
            sequence := if e.kind = .arrival then e.sequence else x.sequence
            reason := if e.kind = .peer ∨ e.kind = .streamAborted then e.reason else x.reason } :: after)
    ∧ (accepted → (∀ y ∈ q.events, ¬ (y.kind = e.kind ∧ y.subject = e.subject)) →
        (q.events.length < 16 → q'.lost = q.lost ∧ q'.events = q.events ++ [⟨e.kind, e.subject, e.sequence, 1, e.reason⟩])
        ∧ (16 ≤ q.events.length → q'.events = q.events ∧ q'.lost = min 255 (q.lost + 1)))

/-- EVENT_ENABLE in PRESENT: both settings are replaced, the answer gives the previous ones, and the records already
queued stay (R155).

EVENT_READ in PRESENT, PAUSED and LAPSED: EMPTY with nothing queued and nothing lost; else up to four records leave
the head of the queue, oldest first, and the lost count is reported and set to 0 (R154, R156). -/
def Obligations.EventEnableAndEventRead : Prop :=
  (∀ (s : State) (p : PortId) (c : Command) (a : EnableParams),
      takesNext s p c → c.code = 0x16 → parseEventEnable c.params = some a → (s.port p).record.state = .present →
      ∃ t, exec (.eventEnable p) s = .next t ∧
        onlyPort p s t
        ∧ t.port p = ({ s.port p with
            record := { (s.port p).record with enables := a.enables, attnEnable := a.attnEnable }
            link := (s.port p).link.answering c .ok
              (enc2 (s.port p).record.enables.toNat ++ [if (s.port p).record.attnEnable then 1 else 0]) }
            : PortState).withXreqOf (t.port p))
  ∧ (∀ (s : State) (p : PortId) (c : Command),
      takesNext s p c → c.code = 0x17 → c.params = [] → (s.port p).record.state ≠ .detached →
      ∃ t, exec (.eventRead p) s = .next t ∧
        onlyPort p s t
        ∧ t.port p = (({ s.port p with events := (s.port p).events.drop 4, lost := 0 }
            : PortState).withXreqOf (t.port p)).withLinkOf (t.port p)
        ∧ ((s.port p).events = [] ∧ (s.port p).lost = 0 →
            answered p c .empty [] s t)
        ∧ ((s.port p).events ≠ [] ∨ 0 < (s.port p).lost →
            answered p c .ok
              ([BitVec.ofNat 8 (min 4 (s.port p).events.length), BitVec.ofNat 8 (s.port p).lost,
                  BitVec.ofNat 8 ((s.port p).events.length - 4)]
                ++ ((s.port p).events.take 4).flatMap encEventRecord) s t)
        ∧ (t.port p).attnAsserted = ((s.port p).record.attnEnable && decide (4 < (s.port p).events.length)))

/-! ## Port notices at the table (R45, R58 to R61, R147) -/

/-- ATTACH_NOTICE: every SUSPENDED subscription of the port becomes ACTIVE with the resumed flag, the seals of the
suspension counted as overruns on FANOUT and the effective mode set anew; its ACTIVE and empty slots stay, and so does
the rest of the port; the ATTACH is answered OK with their number, and PEER (ATTACHED) goes to the other ports (R60,
R139, R147), also for a notice whose controller was reset meanwhile (DEDUCED, log 13). -/
def Obligations.AttachNoticeReactivates : Prop :=
  ∀ (s : State) (p : PortId) (c : Command) (awaited : Bool) (rest : List TableMsg),
    (s.port p).toTable = .attachNotice awaited :: rest → (awaited = true → (s.port p).busy = some c) →
    ∃ t, exec (.attachNotice p) s = .next t ∧
      noticeTaken p .present rest s t ∧
      t.store = s.store
      ∧ t.port p = (((({ s.port p with toTable := rest, busy := (t.port p).busy } : PortState).withXreqOf
          (t.port p)).withEventsOf (t.port p)).withLinkOf (t.port p))
      ∧ ((∀ ch, ¬ drained (s.chan ch)) → (t.port p).events = (s.port p).events ∧ (t.port p).lost = (s.port p).lost)
      ∧ (awaited = true → (t.port p).busy = none
          ∧ (t.port p).link = { (s.port p).link with responses := (s.port p).link.responses ++ [⟨c.tag, c.code, .ok,
              [BitVec.ofNat 8 (allChannels.filter fun ch => ((s.chan ch).sub p).any Sub.suspended).length]⟩] })
      ∧ (awaited = false → (t.port p).busy = (s.port p).busy ∧ (t.port p).link = (s.port p).link)
      ∧ (∀ ch, ¬ drained (s.chan ch) →
          { t.chan ch with subs := (s.chan ch).subs } = s.chan ch
          ∧ (∀ q, q ≠ p → ((t.chan ch).sub q).map Sub.modeless = ((s.chan ch).sub q).map Sub.modeless)
          ∧ ((s.chan ch).sub p = none → (t.chan ch).sub p = none)
          ∧ (∀ sub ∈ (s.chan ch).sub p, sub.suspended = false →
              ((t.chan ch).sub p).map Sub.modeless = some sub.modeless)
          ∧ ∀ sub ∈ (s.chan ch).sub p, sub.suspended = true →
            (t.chan ch).sub p = some { sub with
              suspended := false
              resumed := true
              mark := none
              overrun := if (s.chan ch).kind = some .fanout then
                  min 255 (sub.overrun + (match sub.mark with
                    | some m => ((s.chan ch).posted - m).toNat
                    | none => 0))
                else sub.overrun
              fan := sub.fan.map fun f =>
                { f with effective := modeUnder f.requested ((s.chan ch).reserved ≤ f.limit) } })
      ∧ (∀ q, q ≠ p → portKeptButEvents q s t)
      ∧ ∀ q, q ≠ p → (s.port q).accepts (peerEvent p .attached) = true → told (t.port q) (peerEvent p .attached)

/-- PAUSE_NOTICE: on every channel the port's BLOCKING subscription becomes DEFERRED; lag, pending readers and counts
stay, and so does the port itself, and no event is raised (R58, R142).

RESUME_NOTICE: every DEFERRED subscription of the port whose bound holds becomes BLOCKING again, and the others stay
DEFERRED; lag, pending readers and counts stay, and so does the port itself, and no event is raised (R58, R53). -/
def Obligations.PauseAndResumeNoticesMoveModes : Prop :=
  (∀ (s : State) (p : PortId) (rest : List TableMsg),
      (s.port p).toTable = .pauseNotice :: rest →
      ∃ t, exec (.pauseNotice p) s = .next t ∧
        noticeTaken p .paused rest s t ∧
        t.store = s.store
        ∧ t.port p = (({ s.port p with toTable := rest } : PortState).withXreqOf (t.port p)).withEventsOf (t.port p)
        ∧ (∀ ch, ¬ drained (s.chan ch) →
            { t.chan ch with subs := (s.chan ch).subs } = s.chan ch
            ∧ (∀ q, q ≠ p → ((t.chan ch).sub q).map Sub.modeless = ((s.chan ch).sub q).map Sub.modeless)
            ∧ (t.chan ch).sub p = ((s.chan ch).sub p).map fun sub => { sub with
                fan := sub.fan.map fun f =>
                  { f with effective := if f.effective = .blocking then .deferred else f.effective } })
        ∧ (∀ q, q ≠ p → portKeptButEvents q s t)
        ∧ ((∀ ch, ¬ drained (s.chan ch)) → ∀ q, (t.port q).events = (s.port q).events ∧ (t.port q).lost = (s.port q).lost))
  ∧ (∀ (s : State) (p : PortId) (rest : List TableMsg),
      (s.port p).toTable = .resumeNotice :: rest →
      ∃ t, exec (.resumeNotice p) s = .next t ∧
        noticeTaken p .present rest s t ∧
        t.store = s.store
        ∧ t.port p = (({ s.port p with toTable := rest } : PortState).withXreqOf (t.port p)).withEventsOf (t.port p)
        ∧ (∀ ch, ¬ drained (s.chan ch) →
            chanKept ch s t
            ∧ (t.chan ch).sub p = ((s.chan ch).sub p).map fun sub => { sub with
                fan := sub.fan.map fun f =>
                  { f with effective :=
                      if (s.chan ch).kind = some .fanout ∧ f.effective = .deferred ∧ sub.suspended = false
                          ∧ lag s ch p + (s.chan ch).reserved ≤ f.limit then .blocking else f.effective } })
        ∧ (∀ q, q ≠ p → portKeptButEvents q s t)
        ∧ ((∀ ch, ¬ drained (s.chan ch)) → ∀ q, (t.port q).events = (s.port q).events ∧ (t.port q).lost = (s.port q).lost))

/-- LAPSE_NOTICE: each subscription of the port is SUSPENDED, on FANOUT with its lag counted as overruns, the posted count
marked and requested BLOCKING made DEFERRED; the port leaves every pending-reader set and its claims are abandoned;
each channel's log and counts follow, and one that has drained becomes UNUSED with CHANNEL_GONE; the port itself
stays, and takes no event while LAPSED (one that has attached again may take DISCARDED: DEDUCED, log 42); PEER
(LAPSED) goes to the other ports (R59, R48, R72, R73, R37, R144, R147). -/
def Obligations.LapseNoticeSuspends : Prop :=
  ∀ (s : State) (p : PortId) (rest : List TableMsg),
    tableLaw s → (s.port p).toTable = .lapseNotice :: rest →
    ∃ t, exec (.lapseNotice p) s = .next t ∧
      noticeTaken p .absent rest s t ∧
      (∀ ch, (t.chan ch).state ≠ .unused → ∀ sub ∈ (s.chan ch).sub p,
          (t.chan ch).sub p = some (if (s.chan ch).kind = some .fanout then
              { sub with
                suspended := true
                overrun := min 255 (sub.overrun + lag s ch p)
                mark := some (s.chan ch).posted
                fan := sub.fan.map fun f => { f with effective := modeUnder f.requested False } }
            else { sub with suspended := true }))
      ∧ (∀ ch,
          let c := s.chan ch
          let gone := leavingWith s ch p
          (c.kind ≠ some .fanout → ∀ r ∈ c.log, (s.record r).pending = none) →
          settledTo ch { ((c.without s gone).modSub p fun sub =>
              if c.kind = some .fanout then
                { sub with
                  suspended := true
                  overrun := min 255 (sub.overrun + lag s ch p)
                  mark := some c.posted
                  fan := sub.fan.map fun f => { f with effective := modeUnder f.requested False } }
              else { sub with suspended := true }) with
            dropped := if c.kind = some .queue ∧ gone ≠ [] then min 65535 (c.dropped + gone.length) else c.dropped } s t)
      ∧ (∀ ch, lag t ch p = 0)
      ∧ (∀ ch, (s.chan ch).kind = some .queue → ∀ r ∈ (t.chan ch).log, (t.record r).claimant ≠ some p)
      ∧ (∀ ch, (s.chan ch).kind = some .queue → ∀ r ∈ (s.chan ch).log, (s.record r).claimant = some p →
          (s.record r).pending = none → claimAbandoned (s.record r) (t.record r))
      ∧ (∀ ch, (s.chan ch).kind = some .fanout → ∀ r ∈ (s.chan ch).log, (s.record r).lists p = true →
          readerDropped p (s.record r) (t.record r))
      ∧ t.port p = (({ s.port p with toTable := rest } : PortState).withXreqOf (t.port p)).withEventsOf (t.port p)
      ∧ ((s.port p).record.state = .lapsed →
          (t.port p).events = (s.port p).events ∧ (t.port p).lost = (s.port p).lost)
      ∧ (∀ q, q ≠ p → portKeptButEvents q s t)
      ∧ ∀ q, q ≠ p → (s.port q).accepts (peerEvent p .peerLapsed) = true → told (t.port q) (peerEvent p .peerLapsed)

/-- DETACH_NOTICE and RESET_NOTICE: every subscription of the port is removed, the port leaves every pending-reader set
and its claims are abandoned, each channel's log and counts follow, one that has drained becomes UNUSED with
CHANNEL_GONE, the port itself stays but for a DETACH to complete, and takes no event while DETACHED or LAPSED (one
that has attached again may take DISCARDED: DEDUCED, log 42), and PEER (DETACHED, RESET) goes to the other ports, also
for a notice whose controller was reset meanwhile (DEDUCED, log 13) (R61, R48, R72, R73, R37, R145, R146, R147).

DETACH_NOTICE, steps 5 and 6 of DETACH: the event queue, the lost count and the unread responses go when the notice is
taken (DEDUCED, log 34), DETACH is answered OK with the number of subscriptions removed, the commands behind it,
malformed ones among them (DEDUCED, log 29), are answered DETACHED, the port record takes its reset values, and the
rest of the port stays (R145, R148, R166). -/
def Obligations.DepartureNoticeRemovesPort : Prop :=
  (∀ (s : State) (p : PortId) (m : TableMsg) (rest : List TableMsg) (i : Instr) (why : Reason),
      tableLaw s → (s.port p).toTable = m :: rest →
      (i = .detachNotice p ∧ why = .detached ∧ (m = .detachNotice true ∨ m = .detachNotice false))
        ∨ (i = .resetNotice p ∧ why = .reset ∧ m = .resetNotice) →
      ∃ t, exec i s = .next t ∧
        noticeTaken p .absent rest s t ∧
        (∀ ch, (t.chan ch).sub p = none) ∧ (∀ ch, lag t ch p = 0)
        ∧ (∀ ch, (s.chan ch).kind = some .queue → ∀ r ∈ (t.chan ch).log, (t.record r).claimant ≠ some p)
        ∧ (∀ ch, (s.chan ch).kind = some .queue → ∀ r ∈ (s.chan ch).log, (s.record r).claimant = some p →
            (s.record r).pending = none → claimAbandoned (s.record r) (t.record r))
        ∧ (∀ ch, (s.chan ch).kind = some .fanout → ∀ r ∈ (s.chan ch).log, (s.record r).lists p = true →
            readerDropped p (s.record r) (t.record r))
        ∧ (∀ ch,
            let c := s.chan ch
            let gone := leavingWith s ch p
            (c.kind ≠ some .fanout → ∀ r ∈ c.log, (s.record r).pending = none) →
            settledTo ch { (c.without s gone).setSub p none with
              dropped := if c.kind = some .queue ∧ gone ≠ [] then min 65535 (c.dropped + gone.length) else c.dropped } s t)
        ∧ (m ≠ .detachNotice true →
            t.port p = (({ s.port p with toTable := rest } : PortState).withXreqOf (t.port p)).withEventsOf (t.port p)
            ∧ ((s.port p).record.state = .detached ∨ (s.port p).record.state = .lapsed →
                (t.port p).events = (s.port p).events ∧ (t.port p).lost = (s.port p).lost))
        ∧ (∀ q, q ≠ p → portKeptButEvents q s t)
        ∧ ∀ q, q ≠ p → (s.port q).accepts (peerEvent p why) = true → told (t.port q) (peerEvent p why))
  ∧ (∀ (s : State) (p : PortId) (c : Command) (rest : List TableMsg),
      (s.port p).toTable = .detachNotice true :: rest → (s.port p).busy = some c →
      ∃ t, exec (.detachNotice p) s = .next t ∧
        (t.port p).attnAsserted = false
        ∧ t.port p = ({ s.port p with
            toTable := rest
            record := {}
            events := []
            lost := 0
            busy := none
            link := { (s.port p).link with
              commands := []
              responses :=
                ⟨c.tag, c.code, .ok, [BitVec.ofNat 8 (allChannels.filter fun ch => ((s.chan ch).sub p).isSome).length]⟩
                  :: waitingAnswers (s.port p).link.commands .detached
              transaction := match (s.port p).link.transaction with
                | .response r _ => .response r false
                | other => other } } : PortState).withXreqOf (t.port p))

/-! ## Requests and releases taken from a path (R15, R72, R92) -/

/-- ABORT_REQUEST: the port's FILLING record on the channel becomes FREE, its blocks join the tail of the free block list
in chain order, and reserved and blocks in use fall, a DRAINING channel that this drains becoming UNUSED with
CHANNEL_GONE; a record that is no longer the port's FILLING record is left alone; the rest of the port stays, and no
other event is raised (R92, R10, R29, R37).

ABANDONMENT_REQUEST: a claimed record loses its claim and gains a redelivery; at the third abandonment it leaves the
log, the dropped count rises, it is retired and DISCARDED is raised to its origin, a DRAINING channel that this drains
becoming UNUSED with CHANNEL_GONE; a record that the port does not claim is left alone; the rest of the port stays,
and no other event is raised (R72, R73, R37). -/
def Obligations.AbortAndAbandonmentRequests : Prop :=
  (∀ (s : State) (p : PortId) (r : RecId) (ch : ChanId) (rest : List TableMsg),
      (s.port p).toTable = .abort r ch :: rest →
      ∃ t, exec (.abortRequest p) s = .next t ∧
        otherRecordsKept r s t ∧ otherChansKept ch s t ∧ poolKept s t ∧ deviceKept s t
        ∧ t.port p = (({ s.port p with toTable := rest } : PortState).withXreqOf (t.port p)).withEventsOf (t.port p)
        ∧ (∀ q, q ≠ p → portKeptButEvents q s t)
        ∧ ((t.chan ch).state ≠ .unused → ∀ q, (t.port q).events = (s.port q).events ∧ (t.port q).lost = (s.port q).lost)
        ∧ ((s.record r).state = .filling ∧ (s.record r).channel = some ch ∧ (s.record r).origin = some p →
            t.record r = {} ∧ t.store.free = s.store.free ++ (s.record r).chain
            ∧ settledTo ch { s.chan ch with
                reserved := (s.chan ch).reserved - 1
                blocksInUse := (s.chan ch).blocksInUse - (s.record r).chain.length } s t)
        ∧ (¬ ((s.record r).state = .filling ∧ (s.record r).channel = some ch ∧ (s.record r).origin = some p) →
            t.store = s.store ∧ settledTo ch (s.chan ch) s t))
  ∧ (∀ (s : State) (p : PortId) (r : RecId) (ch : ChanId) (rest : List TableMsg),
      (s.port p).toTable = .abandon r ch :: rest →
      ∃ t, exec (.abandonmentRequest p) s = .next t ∧
        otherRecordsKept r s t ∧ otherChansKept ch s t ∧ poolKept s t ∧ deviceKept s t
        ∧ t.port p = (({ s.port p with toTable := rest } : PortState).withXreqOf (t.port p)).withEventsOf (t.port p)
        ∧ (∀ q, q ≠ p → portKeptButEvents q s t)
        ∧ ((t.chan ch).state ≠ .unused →
            ∀ q, (s.record r).origin ≠ some q ∨ (s.record r).redeliveries < 2 →
              (t.port q).events = (s.port q).events ∧ (t.port q).lost = (s.port q).lost)
        ∧ ((s.record r).state = .sealed ∧ r ∈ (s.chan ch).log ∧ (s.record r).claimant = some p →
            ((s.record r).redeliveries < 2 →
              t.record r = { s.record r with claimant := none, redeliveries := (s.record r).redeliveries + 1 }
              ∧ settledTo ch (s.chan ch) s t)
            ∧ (2 ≤ (s.record r).redeliveries →
              retired { s.record r with claimant := none } (t.record r) ∧ r ∉ (t.chan ch).log
              ∧ settledTo ch { (s.chan ch).without s [r] with dropped := min 65535 ((s.chan ch).dropped + 1) } s t
              ∧ ∀ o, (s.record r).origin = some o → (s.port o).accepts (chanEvent .discarded ch) = true →
                  told (t.port o) (chanEvent .discarded ch)))
        ∧ (¬ ((s.record r).state = .sealed ∧ r ∈ (s.chan ch).log ∧ (s.record r).claimant = some p) →
            t.store = s.store ∧ t.table = s.table
              ∧ ∀ q, (t.port q).events = (s.port q).events ∧ (t.port q).lost = (s.port q).lost))

/-- RELEASE: the port leaves the holders, also where a forced close ended the read that the release was sent for and the
port holds the record anew (the model's choice, log 44); a WITHDRAWN record whose last hold goes becomes FREE, its blocks join the tail
of the free block list and its channel's withdrawn count and blocks in use fall, a DRAINING channel that this drains
becoming UNUSED with CHANNEL_GONE; a port that holds nothing changes nothing; the rest of the port stays, and no other
event is raised (R15, R4, R29, R37). -/
def Obligations.ReleaseFreesWithdrawnRecord : Prop :=
  ∀ (s : State) (p : PortId) (r : RecId) (rest : List RecId),
    (s.port p).releases = r :: rest →
    ∃ t, exec (.release p) s = .next t ∧
      otherRecordsKept r s t ∧ poolKept s t ∧ deviceKept s t
      ∧ t.port p = (({ s.port p with releases := rest } : PortState).withXreqOf (t.port p)).withEventsOf (t.port p)
      ∧ (∀ q, q ≠ p → portKeptButEvents q s t)
      ∧ ((∀ ch, (s.record r).channel = some ch → (t.chan ch).state ≠ .unused) →
          ∀ q, (t.port q).events = (s.port q).events ∧ (t.port q).lost = (s.port q).lost)
      ∧ (inSet (s.record r).holders p = false → t.store = s.store ∧ t.table = s.table)
      ∧ (inSet (s.record r).holders p = true →
          ((s.record r).state = .withdrawn ∧ erasePort (s.record r).holders p = 0 →
            t.record r = {} ∧ t.store.free = s.store.free ++ (s.record r).chain
            ∧ ∀ ch, (s.record r).channel = some ch →
                settledTo ch { s.chan ch with
                  withdrawn := (s.chan ch).withdrawn - 1
                  blocksInUse := (s.chan ch).blocksInUse - (s.record r).chain.length } s t
                ∧ otherChansKept ch s t)
          ∧ (¬ ((s.record r).state = .withdrawn ∧ erasePort (s.record r).holders p = 0) →
            t.record r = { s.record r with holders := erasePort (s.record r).holders p }
            ∧ t.store.free = s.store.free ∧ t.table = s.table))

/-- EXPIRY_TIMER_FIRE: a SEALED record whose deadline equals the tick count gets its fired flag and an expiry notice is
sent; the record stays SEALED and in its log; at any other count, and for a record without a running timer, nothing
changes (R20, R21; that a timer fires at a moment of that count which the queue chooses is the model's, log 7).

EXPIRY_NOTICE: a valid notice removes the message from its log, counts an overrun and raises OVERRUN for each listed
port, raises the dropped count, retires the record and raises EXPIRED_HELD to its holders, a DRAINING channel that
this drains becoming UNUSED with CHANNEL_GONE; a stale notice is discarded with no effect (R21, R56, R75, R82, R37). -/
def Obligations.ExpiryTimerAndNotice : Prop :=
  (∀ (s : State) (r : RecId),
      s.phase = .ready →
      (expiryDue s.tick (s.record r) → (s.record r).channel.isSome = true ∧ (s.record r).sequence.isSome = true) →
      ∃ t, exec (.expiryTimerFire r) s = .next t ∧
        (¬ expiryDue s.tick (s.record r) → t = s)
        ∧ ∀ ch seq, expiryDue s.tick (s.record r) → (s.record r).channel = some ch → (s.record r).sequence = some seq →
            t.record r = { s.record r with fired := true } ∧ otherRecordsKept r s t
            ∧ t.store.notices = s.store.notices ++ [⟨r, ch, seq⟩] ∧ t.store.free = s.store.free
            ∧ t.store.codes = s.store.codes ∧ poolKept s t ∧ t.table = s.table ∧ t.ports = s.ports ∧ deviceKept s t)
  ∧ (∀ (s : State) (n : ExpiryNotice),
      n ∈ s.store.notices →
      ∃ t, exec (.expiryNotice n) s = .next t ∧
        t.store.notices = s.store.notices.erase n ∧ poolKept s t ∧ deviceKept s t ∧ otherRecordsKept n.record s t
        ∧ (∀ q, portKeptButEvents q s t)
        ∧ ((s.record n.record).state = .sealed ∧ (s.record n.record).fired = true
              ∧ n.record ∈ (s.chan n.channel).log ∧ (s.record n.record).sequence = some n.sequence →
            retired (s.record n.record) (t.record n.record) ∧ n.record ∉ (t.chan n.channel).log
            ∧ otherChansKept n.channel s t
            ∧ settledTo n.channel { (s.chan n.channel).without s [n.record] with
                dropped := min 65535 ((s.chan n.channel).dropped + 1)
                subs := Vector.ofFn fun q => ((s.chan n.channel).sub q).map fun sub =>
                  if (s.record n.record).lists q = true then { sub with overrun := min 255 (sub.overrun + 1) } else sub } s t
            ∧ (∀ q, (s.record n.record).lists q = true →
                (s.port q).accepts (chanEvent .overrun n.channel) = true →
                told (t.port q) (chanEvent .overrun n.channel))
            ∧ ∀ q, inSet (s.record n.record).holders q = true →
                (s.port q).accepts (chanEvent .expiredHeld n.channel) = true →
                told (t.port q) (chanEvent .expiredHeld n.channel))
        ∧ (¬ ((s.record n.record).state = .sealed ∧ (s.record n.record).fired = true
              ∧ n.record ∈ (s.chan n.channel).log ∧ (s.record n.record).sequence = some n.sequence) →
            t.store.recs = s.store.recs ∧ t.store.free = s.store.free ∧ t.table = s.table ∧ t.ports = s.ports))

/-! ## Channels (chapter 2) -/

/-- DEFINE of a name that no channel holds, while a channel is UNUSED: the lowest-numbered one becomes OPEN with the given
settings, every count 0, next sequence 1 and no subscription; the answer is OK with its number (R32).

DEFINE refused: EXISTS with number and kind when an OPEN channel holds the name, CLOSED with the number when a DRAINING
one does, NOSPACE when no channel is UNUSED; nothing changes (R32, R33, R36). -/
def Obligations.DefineTakesLowestUnused : Prop :=
  (∀ (s : State) (p : PortId) (c : Command) (a : DefineParams) (ch : ChanId),
      takesNextAtTable s p c → c.code = 0x20 → parseDefine c.params = some a →
      (∀ d, (s.chan d).state ≠ .unused → (s.chan d).name ≠ some a.name) →
      (s.chan ch).state = .unused → (∀ d, d < ch → (s.chan d).state ≠ .unused) →
      ∃ t, exec (.define p) s = .next t ∧
        answered p c .ok [BitVec.ofNat 8 ch.val] s t
        ∧ t.chan ch = { state := .opened, name := some a.name, kind := some a.kind, depth := a.depth, quota := a.quota,
                        posters := a.posters, admins := a.admins, blocksInUse := 0, log := [], reserved := 0,
                        withdrawn := 0, nextSeq := 1, subs := Vector.replicate 4 none, posted := 0, dropped := 0 }
        ∧ otherChansKept ch s t ∧ t.store = s.store ∧ deviceKept s t
        ∧ (∀ q, q ≠ p → portKept q s t) ∧ portKeptButLink p s t)
  ∧ (∀ (s : State) (p : PortId) (c : Command) (a : DefineParams),
      takesNextAtTable s p c → c.code = 0x20 → parseDefine c.params = some a →
      (∀ d e, (s.chan d).state ≠ .unused → (s.chan e).state ≠ .unused → (s.chan d).name = some a.name →
        (s.chan e).name = some a.name → d = e) →
      (∃ d, (s.chan d).state ≠ .unused ∧ (s.chan d).name = some a.name) ∨ (∀ d, (s.chan d).state ≠ .unused) →
      ∃ t, exec (.define p) s = .next t ∧
        onlyPort p s t ∧ portKeptButLink p s t
        ∧ (∀ d k, (s.chan d).state = .opened → (s.chan d).name = some a.name → (s.chan d).kind = some k →
            answered p c .exists_ [BitVec.ofNat 8 d.val, BitVec.ofNat 8 k.code] s t)
        ∧ (∀ d, (s.chan d).state = .draining → (s.chan d).name = some a.name →
            answered p c .closed [BitVec.ofNat 8 d.val] s t)
        ∧ ((∀ d, (s.chan d).state ≠ .unused ∧ (s.chan d).name ≠ some a.name) → answered p c .nospace [] s t))

/-- LOOKUP takes a name and answers OK with number, kind and state of the channel that holds it, or NOCHANNEL, or LIMIT
for a name that is not acceptable; it changes nothing and raises no event (R34). -/
def Obligations.LookupFindsChannelByName : Prop :=
  ∀ (s : State) (p : PortId) (c : Command),
    takesNextAtTable s p c → c.code = 0x21 → c.params.length = 8 →
    (∀ d e, (s.chan d).state ≠ .unused → (s.chan e).state ≠ .unused → (s.chan d).name = some c.params →
      (s.chan e).name = some c.params → d = e) →
    ∃ t, exec (.lookup p) s = .next t ∧
      onlyPort p s t ∧ portKeptButLink p s t
      ∧ ((∃ b ∈ c.params, b.toNat < 0x20 ∨ 0x7E < b.toNat) ∨ (∀ b ∈ c.params, b = 0x20) →
          answered p c .limit [] s t)
      ∧ ((∀ b ∈ c.params, 0x20 ≤ b.toNat ∧ b.toNat ≤ 0x7E) ∧ (∃ b ∈ c.params, b ≠ 0x20) →
          (∀ d k, (s.chan d).state ≠ .unused → (s.chan d).name = some c.params → (s.chan d).kind = some k →
            answered p c .ok [BitVec.ofNat 8 d.val, BitVec.ofNat 8 k.code,
              if (s.chan d).state = .opened then 1 else 2] s t)
          ∧ ((∀ d, (s.chan d).state ≠ .unused → (s.chan d).name ≠ some c.params) →
            answered p c .nochannel [] s t))

/-- A command that names an UNUSED channel is answered NOCHANNEL and changes nothing (R26).

CLOSE, CLOSE_FORCE, PURGE and MODIFY by a port outside the admin set are answered DENIED and change nothing but
promotions at the channel (R31, R53). -/
def Obligations.NamedChannelIsChecked : Prop :=
  (∀ (s : State) (p : PortId) (c : Command) (i : Instr) (ch : ChanId) (b : Byte) (bs : List Byte),
      takesNextAtTable s p c → rowFor p c = some i → inRange c = true →
      c.code ∈ [0x22, 0x23, 0x24, 0x25, 0x30, 0x31, 0x32, 0x33, 0x40, 0x41, 0x50, 0x51, 0x60, 0x61] →
      (c.code = 0x41 → (s.port p).staging.length < 8) →
      (c.code = 0x60 ∨ c.code = 0x61 → (s.port p).stream.state = .idle) →
      c.params = b :: bs → b.toNat = ch.val → (s.chan ch).state = .unused →
      ∃ t, exec i s = .next t ∧ answered p c .nochannel [] s t ∧ onlyPort p s t ∧ portKeptButLink p s t)
  ∧ (∀ (s : State) (p : PortId) (c : Command) (i : Instr) (ch : ChanId) (b : Byte) (bs : List Byte),
      takesNextAtTable s p c → rowFor p c = some i → inRange c = true →
      c.code ∈ [0x22, 0x23, 0x24] → c.params = b :: bs → b.toNat = ch.val → (s.chan ch).state ≠ .unused →
      inSet (s.chan ch).admins p = false →
      ∃ t, exec i s = .next t ∧
        answered p c .denied [] s t ∧ chanKept ch s t ∧ tableEventKept p ch s t ∧ t.store = s.store
        ∧ ∀ q, (t.port q).events = (s.port q).events)

/-- CLOSE without FORCE by an admin port: an OPEN channel becomes DRAINING with CHANNEL_CLOSING to its subscribers, or
UNUSED at once with CHANNEL_GONE as well when the drain condition holds; a DRAINING channel stays as it is; the answer
gives the state after the command (R35, R37, R38).

DRAIN_COMPLETE: a DRAINING channel with an empty log, nothing reserved and nothing withdrawn takes the values of an
UNUSED channel and CHANNEL_GONE is raised to its subscribers; while the condition does not hold, nothing changes (R37,
R38, R27; the row beside the events that complete a drain themselves is deduced, log 27, and its no effect is the
model's choice, log 1). -/
def Obligations.CloseDrainsChannel : Prop :=
  (∀ (s : State) (p : PortId) (c : Command) (ch : ChanId),
      takesNextAtTable s p c → c.code = 0x22 → parseClose c.params = some ⟨ch, false⟩ →
      (s.chan ch).state ≠ .unused → inSet (s.chan ch).admins p = true →
      ∃ t, exec (.close p) s = .next t ∧
        t.store = s.store ∧ tableEventKept p ch s t
        ∧ ((s.chan ch).state = .draining → answered p c .ok [2] s t ∧ chanKept ch s t
            ∧ ∀ q, (t.port q).events = (s.port q).events)
        ∧ ((s.chan ch).state = .opened →
            (∀ q, ((s.chan ch).sub q).isSome = true → (s.port q).accepts (chanEvent .channelClosing ch) = true →
              told (t.port q) (chanEvent .channelClosing ch))
            ∧ ((s.chan ch).log = [] ∧ (s.chan ch).reserved = 0 ∧ (s.chan ch).withdrawn = 0 →
                answered p c .ok [0] s t ∧ t.chan ch = {}
                ∧ ∀ q, ((s.chan ch).sub q).isSome = true → (s.port q).accepts (chanEvent .channelGone ch) = true →
                    told (t.port q) (chanEvent .channelGone ch))
            ∧ (¬ ((s.chan ch).log = [] ∧ (s.chan ch).reserved = 0 ∧ (s.chan ch).withdrawn = 0) →
                answered p c .ok [2] s t ∧ (t.chan ch).state = .draining
                ∧ { t.chan ch with subs := (s.chan ch).subs, state := .opened } = s.chan ch
                ∧ ∀ q, ((t.chan ch).sub q).map Sub.modeless = ((s.chan ch).sub q).map Sub.modeless)))
  ∧ (∀ (s : State) (ch : ChanId),
      ∃ t, exec (.drainComplete ch) s = .next t ∧
        ((s.chan ch).state = .draining ∧ (s.chan ch).log = [] ∧ (s.chan ch).reserved = 0 ∧ (s.chan ch).withdrawn = 0 →
            t.chan ch = {} ∧ otherChansKept ch s t ∧ t.store = s.store ∧ deviceKept s t
            ∧ (∀ q, portKeptButEvents q s t)
            ∧ ∀ q, ((s.chan ch).sub q).isSome = true → (s.port q).accepts (chanEvent .channelGone ch) = true →
                told (t.port q) (chanEvent .channelGone ch))
        ∧ (¬ ((s.chan ch).state = .draining ∧ (s.chan ch).log = [] ∧ (s.chan ch).reserved = 0
                ∧ (s.chan ch).withdrawn = 0) → t = s))

/-- CLOSE with FORCE by an admin port: every record that names the channel becomes FREE, the channel takes the values of
an UNUSED one, its subscribers are told CHANNEL_GONE, every stream on it ends with outcome CHANNEL_GONE and
STREAM_ABORTED, every live entry staged on it becomes a void marker in its place, the other entries standing, with
GROUP_VOID; the freed blocks join the free block list in the order of the steps, the log oldest first, the FILLING
records ascending, then port by port the records whose last hold goes (two of one port ascending: the model's choice,
log 41); releases that wait stay on their ports' paths (the model's choice, log 44); ports that do not work on the channel keep stream, staging list and link; the answer is UNUSED and the number
of log messages removed (R39, R40, R4, R132). -/
def Obligations.ForcedCloseEndsAllWork : Prop :=
  ∀ (s : State) (p : PortId) (c : Command) (ch : ChanId),
    let works := fun q r => (s.record r).channel = some ch
      ∧ (((s.record r).state = .filling ∧ (s.record r).origin = some q ∧ writesRecord (s.port q).stream r = true)
        ∨ (((s.record r).state = .sealed ∨ (s.record r).state = .withdrawn)
            ∧ inSet (s.record r).holders q = true ∧ readsRecord (s.port q).stream r = true))
    let stages := fun q r => (s.record r).state = .filling ∧ (s.record r).channel = some ch
      ∧ (s.record r).origin = some q ∧ writesRecord (s.port q).stream r = false
    let freed := fun (x : Record) => x.channel = some ch ∧ (x.state = .sealed ∨ x.state = .withdrawn)
    tableLaw s → takesNextAtTable s p c → c.code = 0x22 → parseClose c.params = some ⟨ch, true⟩ →
    (s.chan ch).state ≠ .unused → inSet (s.chan ch).admins p = true →
    ∃ t, exec (.closeForce p) s = .next t ∧
      answered p c .ok [0, BitVec.ofNat 8 (s.chan ch).log.length] s t
      ∧ t.chan ch = {} ∧ otherChansKept ch s t ∧ deviceKept s t ∧ poolKept s t
      ∧ (∀ r, (s.record r).channel = some ch → t.record r = {})
      ∧ (∀ r, (s.record r).channel ≠ some ch → t.record r = s.record r)
      ∧ (∀ q, ((s.chan ch).sub q).isSome = true → (s.port q).accepts (chanEvent .channelGone ch) = true →
          told (t.port q) (chanEvent .channelGone ch))
      ∧ t.store.free = s.store.free
          ++ ((s.chan ch).log.filter fun r => (s.record r).holders = 0).flatMap (fun r => (s.record r).chain)
          ++ (allRecords.filter fun r => (s.record r).state = .filling ∧ (s.record r).channel = some ch).flatMap
              (fun r => (s.record r).chain)
          ++ allPorts.flatMap (fun q =>
              (allRecords.filter fun r => freed (s.record r) ∧ lastHolder q (s.record r) = true).flatMap
                fun r => (s.record r).chain)
      ∧ (∀ q r, works q r →
          (t.port q).stream = { (s.port q).stream with
            state := .idle, direction := none, mode := none, channel := none, record := none
            outcome := some .channelGone, xreq := false, awaitFall := false, progress := (t.port q).stream.progress }
          ∧ ((s.port q).accepts (abortedEvent ch .channelGone) = true →
              told (t.port q) (abortedEvent ch .channelGone)))
      ∧ (∀ q, (∀ r, ¬ works q r) → (t.port q).stream = ((s.port q).withXreqOf (t.port q)).stream)
      ∧ (∀ q, (t.port q).staging = (s.port q).staging.map fun e => match e with
          | .live r d =>
            if stages q r then .void d else .live r d
          | .void d => .void d)
      ∧ (∀ q r d, stages q r → .live r d ∈ (s.port q).staging →
          (s.port q).accepts (chanEvent .groupVoid ch) = true → told (t.port q) (chanEvent .groupVoid ch))
      ∧ (∀ q, ((s.chan ch).sub q).isSome = false → (∀ r, ¬ works q r) →
          (∀ r d, .live r d ∈ (s.port q).staging → ¬ stages q r) →
          (t.port q).events = (s.port q).events ∧ (t.port q).lost = (s.port q).lost)
      ∧ ∀ q, t.port q = ({ s.port q with
          stream := (t.port q).stream
          staging := (t.port q).staging
          link := if q = p then (t.port p).link else (s.port q).link } : PortState).withEventsOf (t.port q)

/-- PURGE by an admin port: every log message is retired, freed or withdrawn, with no overrun and no change of the dropped
count; reserved records stay; a DRAINING channel that this drains becomes UNUSED with CHANNEL_GONE; CHANNEL_PURGED
goes to the subscribers; the answer is the number removed (R41, R37). -/
def Obligations.PurgeEmptiesLog : Prop :=
  ∀ (s : State) (p : PortId) (c : Command) (ch : ChanId),
    tableLaw s → takesNextAtTable s p c → c.code = 0x23 → parseChannel c.params = some ch →
    (s.chan ch).state ≠ .unused → inSet (s.chan ch).admins p = true →
    ∃ t, exec (.purge p) s = .next t ∧
      answered p c .ok [BitVec.ofNat 8 (s.chan ch).log.length] s t
      ∧ tableEventKept p ch s t ∧ poolKept s t
      ∧ (t.chan ch).log = []
      ∧ (∀ r, r ∈ (s.chan ch).log → retired (s.record r) (t.record r))
      ∧ (∀ r, r ∉ (s.chan ch).log → t.record r = s.record r)
      ∧ (∀ q, ((s.chan ch).sub q).isSome = true → (s.port q).accepts (chanEvent .channelPurged ch) = true →
          told (t.port q) (chanEvent .channelPurged ch))
      ∧ settledTo ch ((s.chan ch).without s (s.chan ch).log) s t

/-- MODIFY by an admin port that passes its checks: the present settings take effect together, the absent ones and
everything else stay, no event is raised, and the answer is the depth and the quota (R42).

MODIFY refused by the table: LIMIT for a depth the kind does not allow, a depth below log plus reserved or a quota
below blocks in use, then BUSY for a poster set that leaves out a port with a FILLING record; nothing takes effect (R42). -/
def Obligations.ModifyReplacesPresentSettings : Prop :=
  (∀ (s : State) (p : PortId) (c : Command) (a : ModifyParams),
      takesNextAtTable s p c → c.code = 0x24 → parseModify c.params = some a →
      (s.chan a.channel).state ≠ .unused → inSet (s.chan a.channel).admins p = true →
      (∀ d ∈ a.depth, ((s.chan a.channel).kind = some .latest → d = 1)
        ∧ ((s.chan a.channel).kind ≠ some .latest → (s.chan a.channel).log.length + (s.chan a.channel).reserved ≤ d)) →
      (∀ n ∈ a.quota, (s.chan a.channel).blocksInUse ≤ n) →
      (∀ ps ∈ a.posters, ∀ r o, (s.record r).state = .filling → (s.record r).channel = some a.channel →
        (s.record r).origin = some o → inSet ps o = true) →
      ∃ t, exec (.modify p) s = .next t ∧
        answered p c .ok (enc1 (a.depth.getD (s.chan a.channel).depth) ++ enc2 (a.quota.getD (s.chan a.channel).quota)) s t
        ∧ tableEventKept p a.channel s t ∧ t.store = s.store ∧ (∀ q, (t.port q).events = (s.port q).events)
        ∧ { t.chan a.channel with subs := (s.chan a.channel).subs } =
            { s.chan a.channel with
              depth := a.depth.getD (s.chan a.channel).depth
              quota := a.quota.getD (s.chan a.channel).quota
              posters := a.posters.getD (s.chan a.channel).posters
              admins := a.admins.getD (s.chan a.channel).admins }
        ∧ ∀ q, ((t.chan a.channel).sub q).map Sub.modeless = ((s.chan a.channel).sub q).map Sub.modeless)
  ∧ (∀ (s : State) (p : PortId) (c : Command) (a : ModifyParams) (limit busy : Bool),
      takesNextAtTable s p c → c.code = 0x24 → parseModify c.params = some a →
      (s.chan a.channel).state ≠ .unused → inSet (s.chan a.channel).admins p = true →
      (limit = true ↔ (∃ d ∈ a.depth, ((s.chan a.channel).kind = some .latest ∧ d ≠ 1)
            ∨ ((s.chan a.channel).kind ≠ some .latest
                ∧ d < (s.chan a.channel).log.length + (s.chan a.channel).reserved))
          ∨ ∃ n ∈ a.quota, n < (s.chan a.channel).blocksInUse) →
      (busy = true ↔ ∃ ps ∈ a.posters, ∃ r o, (s.record r).state = .filling ∧ (s.record r).channel = some a.channel
          ∧ (s.record r).origin = some o ∧ inSet ps o = false) →
      limit = true ∨ busy = true →
      ∃ t, exec (.modify p) s = .next t ∧
        answered p c (if limit then .limit else .busy) [] s t
        ∧ tableEventKept p a.channel s t ∧ t.store = s.store ∧ chanKept a.channel s t)

/-- CHANNEL_QUERY answers OK with the channel record in the order of R43 and changes nothing but promotions at the
channel (R43, R53).

SUB_QUERY answers OK with the subscription's fields in the order of R65 as they stand, a field that the kind has not
as absent (0 or FFh as R167 gives, log 16), clears the resumed flag, and with the clear option sets the overrun count
to 0; nothing else changes but promotions at the channel (R65, R53). -/
def Obligations.QueriesReportChannelAndSubscription : Prop :=
  (∀ (s : State) (p : PortId) (c : Command) (ch : ChanId) (name : List Byte) (kind : Kind),
      takesNextAtTable s p c → c.code = 0x25 → parseChannel c.params = some ch →
      (s.chan ch).state ≠ .unused → (s.chan ch).name = some name → (s.chan ch).kind = some kind →
      ∃ t, exec (.channelQuery p) s = .next t ∧
        chanKept ch s t ∧ tableEventKept p ch s t ∧ t.store = s.store ∧ (∀ q, (t.port q).events = (s.port q).events)
        ∧ answered p c .ok
          ([if (s.chan ch).state = .opened then 1 else 2] ++ name
            ++ [BitVec.ofNat 8 kind.code, BitVec.ofNat 8 (s.chan ch).depth] ++ enc2 (s.chan ch).quota
            ++ enc2 (s.chan ch).blocksInUse
            ++ [BitVec.ofNat 8 (s.chan ch).log.length, BitVec.ofNat 8 (s.chan ch).reserved] ++ enc2 (s.chan ch).withdrawn
            ++ [(s.chan ch).posters.setWidth 8, (s.chan ch).admins.setWidth 8]
            ++ enc2 (s.chan ch).nextSeq.toNat ++ enc2 (s.chan ch).posted.toNat ++ enc2 (s.chan ch).dropped
            ++ [(portsWhere fun q => ((s.chan ch).sub q).isSome).setWidth 8,
                (portsWhere fun q => ((s.chan ch).sub q).any Sub.suspended).setWidth 8]
            ++ enc2 (((s.chan ch).log.head?.map fun r => ((s.record r).sequence.getD 0).toNat).getD 0)
            ++ enc2 (((s.chan ch).log.getLast?.map fun r => ((s.record r).sequence.getD 0).toNat).getD 0)) s t)
  ∧ (∀ (s : State) (p : PortId) (c : Command) (a : SubQueryParams) (sub : Sub) (kind : Kind),
      let ch := a.channel
      let seqOr := fun (x : Option RecId) => match x with
        | some r => ((s.record r).sequence.getD 0).toNat
        | none => (s.chan ch).nextSeq.toNat
      takesNextAtTable s p c → c.code = 0x33 → parseSubQuery c.params = some a →
      (s.chan ch).state ≠ .unused → (s.chan ch).kind = some kind → (s.chan ch).sub p = some sub →
      (sub.fan.isSome = true ↔ kind = .fanout) →
      ∃ t, exec (.subQuery p) s = .next t ∧
        answered p c .ok
          (([if sub.suspended then 1 else 0] : List Byte)
            ++ (match sub.fan with
              | some f => [BitVec.ofNat 8 f.requested.code, BitVec.ofNat 8 f.effective.code, BitVec.ofNat 8 f.limit]
              | none => [0xFF, 0xFF, 0])
            ++ [BitVec.ofNat 8 sub.notify.code]
            ++ (match kind with
              | .fanout => [BitVec.ofNat 8 (listed s ch p).length] ++ enc2 (seqOr (listed s ch p).head?) ++ [0xFF]
              | .queue => [BitVec.ofNat 8 (unclaimed s ch).length] ++ enc2 (seqOr (unclaimed s ch).head?) ++ [0xFF]
              | .latest => [0xFF, 0, 0, match (s.chan ch).log.head? with
                  | some r => if sub.seen = some ((s.record r).sequence.getD 0) then 0 else 1
                  | none => 0])
            ++ enc2 (match sub.seen with | some q => q.toNat | none => 0)
            ++ [BitVec.ofNat 8 sub.overrun, if sub.resumed then 1 else 0]) s t
        ∧ ((t.chan ch).sub p).map Sub.modeless =
            some ({ sub with resumed := false, overrun := if a.clear then 0 else sub.overrun } : Sub).modeless
        ∧ (∀ q, q ≠ p → ((t.chan ch).sub q).map Sub.modeless = ((s.chan ch).sub q).map Sub.modeless)
        ∧ { t.chan ch with subs := (s.chan ch).subs } = s.chan ch
        ∧ tableEventKept p ch s t ∧ t.store = s.store ∧ ∀ q, (t.port q).events = (s.port q).events)

/-! ## Subscriptions (chapter 3) -/

/-- SUBSCRIBE on an OPEN channel with an empty slot: the slot is filled with an ACTIVE subscription, of lag 0 where no
message lists the port, on FANOUT with the effective mode that the bound gives, on LATEST with the current value as
seen; no message changes and no event is raised; the answer is kind, next sequence and on FANOUT the effective mode
(R62, R52; log 15).

UNSUBSCRIBE with no open read on the channel: on FANOUT the port leaves the pending readers of every log message,
uncounted, and the answer is the lag it had; the slot is emptied; a DRAINING channel that this drains becomes UNUSED
with CHANNEL_GONE (R63, R48, R37; no result on the other kinds: DEDUCED, log 15).

The subscription commands refused by the table: SUBSCRIBE with EXISTS and CLOSED, UNSUBSCRIBE with NOSUB and BUSY,
SUB_MODIFY with NOSUB and KIND, SUB_QUERY with NOSUB; nothing changes but promotions at the channel (R62 to R65, R53). -/
def Obligations.SubscribeAndUnsubscribe : Prop :=
  (∀ (s : State) (p : PortId) (c : Command) (a : SubscribeParams) (kind : Kind),
      takesNextAtTable s p c → c.code = 0x30 → parseSubscribe c.params = some a →
      (s.chan a.channel).state = .opened → (s.chan a.channel).sub p = none → (s.chan a.channel).kind = some kind →
      (∀ r ∈ (s.chan a.channel).log, (s.record r).lists p = false) →
      let eff := modeUnder a.mode ((s.chan a.channel).reserved ≤ a.limit)
      ∃ t, exec (.subscribe p) s = .next t ∧
        answered p c .ok ([BitVec.ofNat 8 kind.code] ++ enc2 (s.chan a.channel).nextSeq.toNat
            ++ (if kind = .fanout then [BitVec.ofNat 8 eff.code] else [])) s t
        ∧ (t.chan a.channel).sub p = some
            { suspended := false
              fan := if kind = .fanout then some ⟨a.mode, eff, a.limit⟩ else none
              notify := a.notify, overrun := 0
              seen := if kind = .latest then
                  (s.chan a.channel).log.head?.map fun r => (s.record r).sequence.getD 0 else none
              resumed := false, mark := none }
        ∧ lag t a.channel p = 0
        ∧ { t.chan a.channel with subs := (s.chan a.channel).subs } = s.chan a.channel
        ∧ (∀ q, q ≠ p → ((t.chan a.channel).sub q).map Sub.modeless = ((s.chan a.channel).sub q).map Sub.modeless)
        ∧ tableEventKept p a.channel s t ∧ t.store = s.store ∧ ∀ q, (t.port q).events = (s.port q).events)
  ∧ (∀ (s : State) (p : PortId) (c : Command) (ch : ChanId),
      tableLaw s → takesNextAtTable s p c → c.code = 0x31 → parseChannel c.params = some ch →
      (s.chan ch).state ≠ .unused → ((s.chan ch).sub p).isSome = true → hasReadOn s ch p = false →
      ∃ t, exec (.unsubscribe p) s = .next t ∧
        answered p c .ok (if (s.chan ch).kind = some .fanout then [BitVec.ofNat 8 (lag s ch p)] else []) s t
        ∧ (t.chan ch).sub p = none ∧ tableEventKept p ch s t ∧ poolKept s t
        ∧ ((s.chan ch).kind = some .fanout → lag t ch p = 0
            ∧ (∀ r ∈ (s.chan ch).log, (s.record r).lists p = true → readerDropped p (s.record r) (t.record r))
            ∧ ∀ r, r ∉ (s.chan ch).log ∨ (s.record r).lists p = false → t.record r = s.record r)
        ∧ ((s.chan ch).kind = some .fanout → settledTo ch (((s.chan ch).without s (leavingWith s ch p)).setSub p none) s t)
        ∧ ((s.chan ch).kind ≠ some .fanout → t.store = s.store ∧ { t.chan ch with subs := (s.chan ch).subs } = s.chan ch
            ∧ ∀ q, q ≠ p → ((t.chan ch).sub q).map Sub.modeless = ((s.chan ch).sub q).map Sub.modeless))
  ∧ (∀ (s : State) (p : PortId) (c : Command) (i : Instr) (ch : ChanId) (b : Byte) (bs : List Byte) (st : Status),
      takesNextAtTable s p c → rowFor p c = some i → inRange c = true →
      c.params = b :: bs → b.toNat = ch.val → (s.chan ch).state ≠ .unused →
      (c.code = 0x30 ∧ ((s.chan ch).sub p).isSome = true ∧ st = .exists_)
        ∨ (c.code = 0x30 ∧ (s.chan ch).sub p = none ∧ (s.chan ch).state = .draining ∧ st = .closed)
        ∨ ((c.code = 0x31 ∨ c.code = 0x32 ∨ c.code = 0x33) ∧ (s.chan ch).sub p = none ∧ st = .nosub)
        ∨ (c.code = 0x31 ∧ ((s.chan ch).sub p).isSome = true ∧ hasReadOn s ch p = true ∧ st = .busy)
        ∨ (c.code = 0x32 ∧ ((s.chan ch).sub p).isSome = true ∧ (s.chan ch).kind ≠ some .fanout
            ∧ (∃ k l, bs = k :: l ∧ (k.getLsbD 0 = true ∨ k.getLsbD 1 = true)) ∧ st = .kind) →
      ∃ t, exec i s = .next t ∧
        answered p c st [] s t ∧ t.store = s.store ∧ chanKept ch s t ∧ tableEventKept p ch s t
        ∧ ∀ q, (t.port q).events = (s.port q).events)

/-- SUB_MODIFY on a FANOUT channel with a setting present: the present settings replace the stored ones, and the effective
mode is the one that they and the bound before any drop give; a subscription that is not BLOCKING then drops its
oldest unread messages down to its limit, each counted as an overrun with OVERRUN raised, and is not promoted by them;
a BLOCKING one drops nothing; a DRAINING channel that this drains becomes UNUSED with CHANNEL_GONE; the answer is the
effective mode and the lag (R64, R52, R53, R54, R37).

SUB_MODIFY on a QUEUE or LATEST channel without a mode or a limit, and SUB_MODIFY with no setting on any channel that
is not about to drain: a notify setting present replaces the stored one and nothing else changes but promotions at the
channel; the answer is OK, on FANOUT with effective mode and lag (R64, R53; results of other kinds left out, log 15). -/
def Obligations.SubModifyTrimsToLimit : Prop :=
  (∀ (s : State) (p : PortId) (c : Command) (a : SubModifyParams) (sub : Sub) (f : FanSub),
      tableLaw s → takesNextAtTable s p c → c.code = 0x32 → parseSubModify c.params = some a →
      (s.chan a.channel).state ≠ .unused → (s.chan a.channel).kind = some .fanout →
      (s.chan a.channel).sub p = some sub → sub.fan = some f →
      a.mode.isSome = true ∨ a.limit.isSome = true ∨ a.notify.isSome = true →
      let mode := a.mode.getD f.requested
      let limit := a.limit.getD f.limit
      let eff := modeUnder mode (lag s a.channel p + (s.chan a.channel).reserved ≤ limit)
      let drops := if eff = .blocking then 0 else lag s a.channel p - limit
      let trimmed := (listed s a.channel p).take drops
      let after := { sub with
        fan := some ⟨mode, eff, limit⟩
        notify := a.notify.getD sub.notify
        overrun := if drops = 0 then sub.overrun else min 255 (sub.overrun + drops) }
      ∃ t, exec (.subModify p) s = .next t ∧
        settledTo a.channel (((s.chan a.channel).without s (trimmed.filter fun r => onlyReader p (s.record r))).setSub p
            (some after)) s t
        ∧ ((t.chan a.channel).state ≠ .unused → (t.chan a.channel).sub p = some after)
        ∧ answered p c .ok [BitVec.ofNat 8 eff.code, BitVec.ofNat 8 (lag s a.channel p - drops)] s t
        ∧ lag t a.channel p = lag s a.channel p - drops
        ∧ (∀ r, r ∈ trimmed → readerDropped p (s.record r) (t.record r))
        ∧ (∀ r, r ∉ trimmed → t.record r = s.record r)
        ∧ (0 < drops → (s.port p).accepts (chanEvent .overrun a.channel) = true →
            told (t.port p) (chanEvent .overrun a.channel))
        ∧ tableEventKept p a.channel s t ∧ poolKept s t)
  ∧ (∀ (s : State) (p : PortId) (c : Command) (a : SubModifyParams) (sub : Sub),
      let ch := a.channel
      takesNextAtTable s p c → c.code = 0x32 → parseSubModify c.params = some a →
      (s.chan ch).state ≠ .unused → ¬ drained (s.chan ch) → (s.chan ch).sub p = some sub →
      (sub.fan.isSome = true ↔ (s.chan ch).kind = some .fanout) →
      a.mode = none → a.limit = none → ((s.chan ch).kind = some .fanout → a.notify = none) →
      ∃ t, exec (.subModify p) s = .next t ∧
        ((s.chan ch).kind ≠ some .fanout → answered p c .ok [] s t)
        ∧ ((s.chan ch).kind = some .fanout → ∃ m, (t.chan ch).effective p = some m
            ∧ answered p c .ok [BitVec.ofNat 8 m.code, BitVec.ofNat 8 (lag s ch p)] s t)
        ∧ ((t.chan ch).sub p).map Sub.modeless = some ({ sub with notify := a.notify.getD sub.notify } : Sub).modeless
        ∧ (∀ q, q ≠ p → ((t.chan ch).sub q).map Sub.modeless = ((s.chan ch).sub q).map Sub.modeless)
        ∧ { t.chan ch with subs := (s.chan ch).subs } = s.chan ch
        ∧ tableEventKept p ch s t ∧ t.store = s.store ∧ ∀ q, (t.port q).events = (s.port q).events)

/-! ## Posting (chapter 5) -/

/-- Admission makes its checks in the order of R85 to R88, the first that fails giving the status: the channel is UNUSED,
is DRAINING, the port is not in the poster set, the length passes 4096; QUEUE full; FANOUT full with no message to
evict; FANOUT with depth to spare and a BLOCKING port at its limit; LATEST with four reservations; quota; no FREE
record or too few free blocks. Nothing changes. (A FANOUT channel at its depth with a message in its log is stated
apart.)

An admission that passes every check makes the lowest-numbered FREE record FILLING with the request's fields and the
first blocks of the free block list, and raises reserved by 1 and blocks in use by the chain length (R89, R5, R3, R29).

POST, STAGE and OPEN_POST that admission refuses: the answer is the status of the admission, whichever it is, with no
results; store, channel and events are those the admission leaves, so an eviction it made stands (DEFERRED
subscriptions perhaps promoted); the staging list, the stream context and every other channel stay (R86, R95, R98,
R118). -/
def Obligations.AdmissionChecksAndReserves : Prop :=
  (∀ (s : State) (a : Allocation) (st : Status),
      let c := s.chan a.channel
      let fits := a.length ≤ 4096 ∧ inSet c.posters a.origin = true ∧ c.state = .opened
      let deep := c.log.length + c.reserved + 1 ≤ c.depth
      let bounds := ∀ q f, c.active q = true → c.fanSub q = some f → f.effective = .blocking →
        lag s a.channel q + c.reserved + 1 ≤ f.limit
      let room := (c.kind = some .queue ∧ deep) ∨ (c.kind = some .latest ∧ c.reserved < 4)
        ∨ (c.kind = some .fanout ∧ deep ∧ bounds)
      (c.state = .unused ∧ st = .nochannel)
        ∨ (c.state = .draining ∧ st = .closed)
        ∨ (c.state = .opened ∧ inSet c.posters a.origin = false ∧ st = .denied)
        ∨ (c.state = .opened ∧ inSet c.posters a.origin = true ∧ 4096 < a.length ∧ st = .limit)
        ∨ (fits ∧ c.kind = some .queue ∧ ¬ deep ∧ st = .full)
        ∨ (fits ∧ c.kind = some .fanout ∧ ¬ deep ∧ c.log = [] ∧ st = .full)
        ∨ (fits ∧ c.kind = some .fanout ∧ deep ∧ ¬ bounds ∧ st = .full)
        ∨ (fits ∧ c.kind = some .latest ∧ 4 ≤ c.reserved ∧ st = .full)
        ∨ (fits ∧ room ∧ c.quota < c.blocksInUse + (a.length + 63) / 64 ∧ st = .quota)
        ∨ (fits ∧ room ∧ c.blocksInUse + (a.length + 63) / 64 ≤ c.quota
            ∧ ((∀ r, (s.record r).state ≠ .free) ∨ s.store.free.length < (a.length + 63) / 64) ∧ st = .nospace) →
      admission a s = (.error st, s))
  ∧ (∀ (s : State) (a : Allocation) (r : RecId),
      let ch := a.channel
      let c := s.chan ch
      let n := (a.length + 63) / 64
      c.state = .opened → inSet c.posters a.origin = true → a.length ≤ 4096 →
      (c.kind = some .queue ∧ c.log.length + c.reserved + 1 ≤ c.depth)
        ∨ (c.kind = some .latest ∧ c.reserved < 4)
        ∨ (c.kind = some .fanout ∧ c.log.length + c.reserved + 1 ≤ c.depth
            ∧ ∀ q f, c.active q = true → c.fanSub q = some f → f.effective = .blocking →
                lag s ch q + c.reserved + 1 ≤ f.limit) →
      c.blocksInUse + n ≤ c.quota → n ≤ s.store.free.length →
      (s.record r).state = .free → (∀ o, o < r → (s.record o).state ≠ .free) →
      ∃ t, admission a s = (.ok ⟨r, 0⟩, t)
        ∧ t.record r = { state := .filling, channel := some ch, origin := some a.origin, form := some a.form,
                         length := a.length, chain := s.store.free.take n, tag := a.tag, ttl := a.ttl }
        ∧ t.store.free = s.store.free.drop n ∧ otherRecordsKept r s t ∧ t.store.pool = s.store.pool
        ∧ t.chan ch = { c with reserved := c.reserved + 1, blocksInUse := c.blocksInUse + n }
        ∧ otherChansKept ch s t ∧ t.ports = s.ports ∧ deviceKept s t)
  ∧ (∀ (s : State) (p : PortId) (c : Command) (i : Instr) (a : Allocation) (st : Status),
      let adm := admission a (popCommand p s)
      let ch := a.channel
      takesNextAtTable s p c →
      (i = .post p ∧ c.code = 0x40 ∧ ∃ b ∈ parsePost c.params, a = inlineAllocation p b)
        ∨ (i = .stage p ∧ c.code = 0x41 ∧ (s.port p).staging.length < 8 ∧ ∃ b ∈ parsePost c.params, a = inlineAllocation p b)
        ∨ (i = .openPost p ∧ c.code = 0x60 ∧ (s.port p).stream.state = .idle
            ∧ ∃ b ∈ parseOpenPost c.params, a = streamAllocation p b) →
      (s.chan ch).state ≠ .unused → adm.1 = .error st →
      ∃ t, exec i s = .next t ∧
        answered p c st [] s t
        ∧ t.store = adm.2.store ∧ { t.chan ch with subs := (adm.2.chan ch).subs } = adm.2.chan ch
        ∧ (∀ q, ((t.chan ch).sub q).map Sub.modeless = ((adm.2.chan ch).sub q).map Sub.modeless)
        ∧ (∀ q, (t.port q).events = (adm.2.port q).events ∧ (t.port q).lost = (adm.2.port q).lost)
        ∧ (t.port p).staging = (s.port p).staging
        ∧ tableEventKept p ch s t)

/-- FANOUT checks 4 and 5: when the depth is reached, an oldest message that is held or listed by a BLOCKING port makes
the answer FULL and nothing changes; an evictable one is removed, counted dropped and freed, and each listed port
counts an overrun, and the eviction stands when a later check then fails, FULL at check 5 for one (R86, R87, R55). -/
def Obligations.FullFanoutChannelEvictsOldest : Prop :=
  ∀ (s : State) (a : Allocation) (r : RecId) (rest : List RecId),
    let ch := a.channel
    let c := s.chan ch
    tableLaw s → c.state = .opened → inSet c.posters a.origin = true → a.length ≤ 4096 → c.kind = some .fanout →
    c.depth < c.log.length + c.reserved + 1 → c.log = r :: rest →
    (((s.record r).holders ≠ 0 ∨ ∃ q, (s.record r).lists q = true ∧ c.effective q = some .blocking) →
        admission a s = (.error .full, s))
    ∧ ((s.record r).holders = 0 →
        (∀ q, (s.record r).lists q = true → c.effective q = some .lossy ∨ c.effective q = some .deferred) →
        let t := (admission a s).2
        (∀ m, (admission a s).1 = .ok m → m.evicted = 1)
        ∧ r ∉ (t.chan ch).log ∧ (t.chan ch).log = rest ∧ (t.chan ch).dropped = min 65535 (c.dropped + 1)
        ∧ ((∀ m, (admission a s).1 ≠ .ok m) → t.record r = {} ∧ t.store.free = s.store.free ++ (s.record r).chain)
        ∧ (∀ q, ∀ sub ∈ c.sub q, ((t.chan ch).sub q).map Sub.overrun =
            some (if (s.record r).lists q = true then min 255 (sub.overrun + 1) else sub.overrun))
        ∧ (∀ q, (s.record r).lists q = true → (s.port q).accepts (chanEvent .overrun ch) = true →
            told (t.port q) (chanEvent .overrun ch))
        ∧ ((∃ q f, c.active q = true ∧ c.fanSub q = some f ∧ f.effective = .blocking
              ∧ f.limit < lag s ch q + c.reserved + 1) →
            (admission a s).1 = .error .full))

/-- POST of n bytes on a QUEUE channel that admits it: the message takes the lowest FREE record and one block, is sealed
with the channel's next sequence, joins the end of the log unclaimed and carries the payload; no other byte of the
pool and no check code of another block changes; ARRIVAL goes to the ACTIVE subscribers on EACH, and on EDGE when
nothing was unclaimed, and no event to any other port (R95, R93, R68, R89; the answer leaves out the results of other
kinds: DEDUCED, log 15). -/
def Obligations.PostOnQueueSealsMessage : Prop :=
  ∀ (s : State) (p : PortId) (c : Command) (a : PostParams) (r : RecId) (b : BlockId) (rest : List BlockId),
    let ch := a.channel
    tableLaw s → poolLaw s → takesNextAtTable s p c → c.code = 0x40 → parsePost c.params = some a →
    1 ≤ a.payload.length → a.payload.length ≤ 48 →
    (s.chan ch).state = .opened → (s.chan ch).kind = some .queue → inSet (s.chan ch).posters p = true →
    (s.chan ch).log.length + (s.chan ch).reserved + 1 ≤ (s.chan ch).depth →
    (s.chan ch).blocksInUse + 1 ≤ (s.chan ch).quota → s.store.free = b :: rest →
    (s.record r).state = .free → (∀ o, o < r → (s.record o).state ≠ .free) →
    ∃ t, exec (.post p) s = .next t ∧
      answered p c .ok (enc2 (s.chan ch).nextSeq.toNat ++ [0]) s t
      ∧ t.record r = { state := .sealed, channel := some ch, origin := some p, form := some .counted,
                       sequence := some (s.chan ch).nextSeq, length := a.payload.length, chain := [b], tag := a.tag,
                       ttl := a.ttl, deadline := a.ttl.map fun n => s.tick + BitVec.ofNat 32 n }
      ∧ otherRecordsKept r s t ∧ t.store.free = rest
      ∧ (∀ k x, a.payload[k]? = some x → t.store.pool.read (64 * b.val + k) = x)
      ∧ (∀ addr, addr < 64 * b.val ∨ 64 * b.val + a.payload.length ≤ addr →
          t.store.pool.read addr = s.store.pool.read addr)
      ∧ t.chan ch = { s.chan ch with
          log := (s.chan ch).log ++ [r]
          nextSeq := if (s.chan ch).nextSeq = 65535 then 1 else (s.chan ch).nextSeq + 1
          posted := (s.chan ch).posted + 1
          blocksInUse := (s.chan ch).blocksInUse + 1 }
      ∧ codesWritten [b] s t ∧ tableEventKept p ch s t
      ∧ (∀ q, (∀ sub ∈ (s.chan ch).sub q, sub.suspended = true ∨ sub.notify = .never
            ∨ (sub.notify = .edge ∧ ∃ o ∈ (s.chan ch).log, (s.record o).claimant = none)) →
          (t.port q).events = (s.port q).events ∧ (t.port q).lost = (s.port q).lost)
      ∧ ∀ q, ∀ sub ∈ (s.chan ch).sub q, sub.suspended = false →
          sub.notify = .each ∨ (sub.notify = .edge ∧ ∀ o ∈ (s.chan ch).log, (s.record o).claimant ≠ none) →
          (s.port q).accepts (arrivalEvent ch (s.chan ch).nextSeq) = true →
          told (t.port q) (arrivalEvent ch (s.chan ch).nextSeq)

/-- POST on a LATEST channel that admits it: the new value, with the fields of the post, takes the log alone, the earlier
one is freed or withdrawn, and the dropped count stays; ARRIVAL goes to the ACTIVE subscribers on EACH, and on EDGE
when their changed condition was clear, and no event to any other port; the answer says whether a value was replaced
(R95, R77, R78, R81; the answer's bytes: log 15). -/
def Obligations.PostOnLatestReplacesValue : Prop :=
  ∀ (s : State) (p : PortId) (c : Command) (a : PostParams) (r : RecId) (b : BlockId) (rest : List BlockId),
    let ch := a.channel
    tableLaw s → depthLaw s → poolLaw s → takesNextAtTable s p c → c.code = 0x40 →
    parsePost c.params = some a →
    1 ≤ a.payload.length → a.payload.length ≤ 48 →
    (s.chan ch).state = .opened → (s.chan ch).kind = some .latest → inSet (s.chan ch).posters p = true →
    (s.chan ch).reserved < 4 → (s.chan ch).blocksInUse + 1 ≤ (s.chan ch).quota → s.store.free = b :: rest →
    (s.record r).state = .free → (∀ o, o < r → (s.record o).state ≠ .free) →
    ∃ t, exec (.post p) s = .next t ∧
      answered p c .ok (enc2 (s.chan ch).nextSeq.toNat ++ [0, if (s.chan ch).log = [] then 0 else 1]) s t
      ∧ (t.chan ch).log = [r]
      ∧ t.record r = { state := .sealed, channel := some ch, origin := some p, form := some .counted,
                       sequence := some (s.chan ch).nextSeq, length := a.payload.length, chain := [b], tag := a.tag,
                       ttl := a.ttl, deadline := a.ttl.map fun n => s.tick + BitVec.ofNat 32 n }
      ∧ (∀ k x, a.payload[k]? = some x → t.store.pool.read (64 * b.val + k) = x)
      ∧ (∀ addr, addr < 64 * b.val ∨ 64 * b.val + a.payload.length ≤ addr →
          t.store.pool.read addr = s.store.pool.read addr)
      ∧ (∀ o ∈ (s.chan ch).log, retired (s.record o) (t.record o))
      ∧ (∀ o, o ≠ r → o ∉ (s.chan ch).log → t.record o = s.record o)
      ∧ (t.chan ch).nextSeq = (if (s.chan ch).nextSeq = 65535 then 1 else (s.chan ch).nextSeq + 1)
      ∧ (t.chan ch).posted = (s.chan ch).posted + 1 ∧ (t.chan ch).dropped = (s.chan ch).dropped
      ∧ (t.chan ch).reserved = (s.chan ch).reserved
      ∧ (∀ q, ∀ sub ∈ (s.chan ch).sub q, (t.chan ch).sub q =
          some { sub with seen := if sub.seen = some (s.chan ch).nextSeq then none else sub.seen })
      ∧ (∀ q, ∀ sub ∈ (s.chan ch).sub q, sub.suspended = false →
          sub.notify = .each ∨ (sub.notify = .edge ∧ ∀ o ∈ (s.chan ch).log, sub.seen = (s.record o).sequence) →
          (s.port q).accepts (arrivalEvent ch (s.chan ch).nextSeq) = true →
          told (t.port q) (arrivalEvent ch (s.chan ch).nextSeq))
      ∧ (∀ q, (∀ sub ∈ (s.chan ch).sub q, sub.suspended = true ∨ sub.notify = .never
            ∨ (sub.notify = .edge ∧ ∃ o ∈ (s.chan ch).log, sub.seen ≠ (s.record o).sequence)) →
          (t.port q).events = (s.port q).events ∧ (t.port q).lost = (s.port q).lost)
      ∧ codesWritten [b] s t ∧ tableEventKept p ch s t

/-- POST on a FANOUT channel that admits it: with no ACTIVE subscription the message is freed at once, its number used up;
otherwise it carries the fields of the post and lists every ACTIVE port, and a port at its limit drops its oldest
message and counts an overrun, with OVERRUN raised; ARRIVAL goes to the ACTIVE ports on EACH, and on EDGE at lag 0,
and no event to any other port (R95, R46, R50, R54, R57, R94; the answer leaves out the results of other kinds:
DEDUCED, log 15).

POST on a full FANOUT channel whose oldest message is evicted: the message evicted counts as dropped and, for the
ports it listed, as an overrun; the message posted is sealed behind it as on a channel with room, its bytes alone
written and its number used up, with ARRIVAL and OVERRUN as there, and the answer's evicted count is 1 (R86, R95, R46,
R50, R55; the answer's bytes: log 15). -/
def Obligations.PostOnFanoutListsActivePorts : Prop :=
  (∀ (s : State) (p : PortId) (c : Command) (a : PostParams) (r : RecId) (b : BlockId) (rest : List BlockId),
      let ch := a.channel
      let readers := portsWhere (s.chan ch).active
      tableLaw s → poolLaw s → takesNextAtTable s p c → c.code = 0x40 → parsePost c.params = some a →
      1 ≤ a.payload.length → a.payload.length ≤ 48 →
      (s.chan ch).state = .opened → (s.chan ch).kind = some .fanout → inSet (s.chan ch).posters p = true →
      (s.chan ch).log.length + (s.chan ch).reserved + 1 ≤ (s.chan ch).depth →
      (∀ q sub, (s.chan ch).sub q = some sub → ∃ f, sub.fan = some f ∧ 1 ≤ f.limit ∧ lag s ch q ≤ f.limit
        ∧ (sub.suspended = false → f.effective = .blocking → lag s ch q + (s.chan ch).reserved + 1 ≤ f.limit)) →
      (∀ q, (s.chan ch).sub q = none → lag s ch q = 0) →
      (s.chan ch).blocksInUse + 1 ≤ (s.chan ch).quota → s.store.free = b :: rest →
      (s.record r).state = .free → (∀ o, o < r → (s.record o).state ≠ .free) →
      ∃ t, exec (.post p) s = .next t ∧
        answered p c .ok (enc2 (s.chan ch).nextSeq.toNat ++ [BitVec.ofNat 8 (members readers).length, 0]) s t
        ∧ (t.chan ch).nextSeq = (if (s.chan ch).nextSeq = 65535 then 1 else (s.chan ch).nextSeq + 1)
        ∧ (t.chan ch).posted = (s.chan ch).posted + 1 ∧ (t.chan ch).dropped = (s.chan ch).dropped
        ∧ (t.chan ch).reserved = (s.chan ch).reserved
        ∧ (readers = 0 → t.record r = {} ∧ (t.chan ch).log = (s.chan ch).log ∧ t.store.free = rest ++ [b]
            ∧ (t.chan ch).blocksInUse = (s.chan ch).blocksInUse)
        ∧ (readers ≠ 0 →
            t.record r = { state := .sealed, channel := some ch, origin := some p, form := some .counted,
                           sequence := some (s.chan ch).nextSeq, length := a.payload.length, chain := [b], tag := a.tag,
                           ttl := a.ttl, deadline := a.ttl.map fun n => s.tick + BitVec.ofNat 32 n,
                           pending := some readers }
            ∧ (t.chan ch).log.getLast? = some r
            ∧ (∀ k x, a.payload[k]? = some x → t.store.pool.read (64 * b.val + k) = x)
            ∧ ∀ q sub f, (s.chan ch).sub q = some sub → sub.fan = some f → sub.suspended = false →
                lag t ch q = min (lag s ch q + 1) f.limit
                ∧ ((t.chan ch).sub q).map Sub.overrun =
                    some (if lag s ch q = f.limit then min 255 (sub.overrun + 1) else sub.overrun)
                ∧ (lag s ch q = f.limit → (s.port q).accepts (chanEvent .overrun ch) = true →
                    told (t.port q) (chanEvent .overrun ch))
                ∧ (sub.notify = .each ∨ (sub.notify = .edge ∧ lag s ch q = 0) →
                    (s.port q).accepts (arrivalEvent ch (s.chan ch).nextSeq) = true →
                    told (t.port q) (arrivalEvent ch (s.chan ch).nextSeq)))
        ∧ (∀ addr, addr < 64 * b.val ∨ 64 * b.val + a.payload.length ≤ addr →
            t.store.pool.read addr = s.store.pool.read addr)
        ∧ (∀ q, (∀ sub f, (s.chan ch).sub q = some sub → sub.fan = some f → sub.suspended = true
              ∨ (lag s ch q ≠ f.limit ∧ (sub.notify = .never ∨ (sub.notify = .edge ∧ lag s ch q ≠ 0)))) →
            (t.port q).events = (s.port q).events ∧ (t.port q).lost = (s.port q).lost)
        ∧ codesWritten [b] s t ∧ tableEventKept p ch s t)
  ∧ (∀ (s : State) (p : PortId) (c : Command) (a : PostParams) (o r : RecId) (older : List RecId),
      let ch := a.channel
      let readers := portsWhere (s.chan ch).active
      let adm := admission (inlineAllocation p a) (popCommand p s)
      let left := fun q => lag s ch q - (if (s.record o).lists q = true then 1 else 0)
      let lost := fun q (f : FanSub) => (if (s.record o).lists q = true then 1 else 0) + (if left q = f.limit then 1 else 0)
      tableLaw s → poolLaw s → takesNextAtTable s p c → c.code = 0x40 → parsePost c.params = some a →
      1 ≤ a.payload.length → a.payload.length ≤ 48 → (s.chan ch).kind = some .fanout → (s.chan ch).log = o :: older →
      adm.1 = .ok ⟨r, 1⟩ → readers ≠ 0 →
      (∀ q sub, (s.chan ch).sub q = some sub → ∃ f, sub.fan = some f ∧ 1 ≤ f.limit ∧ lag s ch q ≤ f.limit) →
      ∃ t, exec (.post p) s = .next t ∧
        answered p c .ok (enc2 (s.chan ch).nextSeq.toNat ++ [BitVec.ofNat 8 (members readers).length, 1]) s t
        ∧ t.record r = { state := .sealed, channel := some ch, origin := some p, form := some .counted,
                         sequence := some (s.chan ch).nextSeq, length := a.payload.length,
                         chain := (adm.2.record r).chain, tag := a.tag, ttl := a.ttl,
                         deadline := a.ttl.map fun n => s.tick + BitVec.ofNat 32 n, pending := some readers }
        ∧ (t.chan ch).log.getLast? = some r ∧ (o ≠ r → o ∉ (t.chan ch).log ∧ t.record o = {})
        ∧ chunkWritten (adm.2.record r).chain 0 a.payload s t
        ∧ codesWritten (touchedBlocks (adm.2.record r).chain 0 a.payload.length) s t
        ∧ (t.chan ch).nextSeq = (if (s.chan ch).nextSeq = 65535 then 1 else (s.chan ch).nextSeq + 1)
        ∧ (t.chan ch).posted = (s.chan ch).posted + 1 ∧ (t.chan ch).dropped = min 65535 ((s.chan ch).dropped + 1)
        ∧ (∀ q sub f, (s.chan ch).sub q = some sub → sub.fan = some f → sub.suspended = false →
            lag t ch q = min (left q + 1) f.limit
            ∧ ((t.chan ch).sub q).map Sub.overrun = some (if lost q f = 0 then sub.overrun
                else min 255 (sub.overrun + lost q f)))
        ∧ (∀ q sub f, (s.chan ch).sub q = some sub → sub.fan = some f → sub.suspended = false →
            (lost q f ≠ 0 → (s.port q).accepts (chanEvent .overrun ch) = true → told (t.port q) (chanEvent .overrun ch))
            ∧ (sub.notify = .each ∨ (sub.notify = .edge ∧ left q = 0) →
              (s.port q).accepts (arrivalEvent ch (s.chan ch).nextSeq) = true →
              told (t.port q) (arrivalEvent ch (s.chan ch).nextSeq)))
        ∧ (∀ q, (s.record o).lists q = false → (∀ sub f, (s.chan ch).sub q = some sub → sub.fan = some f →
              sub.suspended = true
              ∨ (left q ≠ f.limit ∧ (sub.notify = .never ∨ (sub.notify = .edge ∧ left q ≠ 0)))) →
            (t.port q).events = (s.port q).events ∧ (t.port q).lost = (s.port q).lost)
        ∧ (∀ q, (s.record o).lists q = true → (s.port q).accepts (chanEvent .overrun ch) = true →
            told (t.port q) (chanEvent .overrun ch))
        ∧ tableEventKept p ch s t)

/-- STAGE that passes admission: the record stays FILLING with the payload written, a live entry joins the tail of the
staging list, and the answer is its position and the number evicted; nothing is sealed (R98, R89).

STAGE on a full FANOUT channel whose oldest message is evicted: as without an eviction, on the store and the channel
that the admission leaves, and the answer's evicted count is 1 (R86, R98, R89).

STAGE with 8 entries staged is FULL, and COMMIT and DISCARD with none are EMPTY; nothing changes (R98, R99, R101). -/
def Obligations.StageAppendsLiveEntry : Prop :=
  (∀ (s : State) (p : PortId) (c : Command) (a : PostParams) (r : RecId) (b : BlockId) (rest : List BlockId),
      let ch := a.channel
      poolLaw s → takesNextAtTable s p c → c.code = 0x41 → parsePost c.params = some a → (s.port p).staging.length < 8 →
      1 ≤ a.payload.length → a.payload.length ≤ 48 →
      (admission (inlineAllocation p a) (popCommand p s)).1 = .ok ⟨r, 0⟩ →
      s.store.free = b :: rest →
      ∃ t, exec (.stage p) s = .next t ∧
        answered p c .ok [BitVec.ofNat 8 ((s.port p).staging.length + 1), 0] s t
        ∧ (t.port p).staging = (s.port p).staging ++ [.live r ch]
        ∧ t.record r = { state := .filling, channel := some ch, origin := some p, form := some .counted,
                         length := a.payload.length, chain := [b], tag := a.tag, ttl := a.ttl }
        ∧ otherRecordsKept r s t ∧ t.store.free = rest
        ∧ (∀ k x, a.payload[k]? = some x → t.store.pool.read (64 * b.val + k) = x)
        ∧ (∀ addr, addr < 64 * b.val ∨ 64 * b.val + a.payload.length ≤ addr →
            t.store.pool.read addr = s.store.pool.read addr)
        ∧ { t.chan ch with subs := (s.chan ch).subs } =
            { s.chan ch with reserved := (s.chan ch).reserved + 1, blocksInUse := (s.chan ch).blocksInUse + 1 }
        ∧ codesWritten [b] s t ∧ otherChansKept ch s t ∧ deviceKept s t ∧ ∀ q, q ≠ p → portKeptButEvents q s t)
  ∧ (∀ (s : State) (p : PortId) (c : Command) (a : PostParams) (r : RecId),
      let ch := a.channel
      let adm := admission (inlineAllocation p a) (popCommand p s)
      poolLaw s → takesNextAtTable s p c → c.code = 0x41 → parsePost c.params = some a → (s.port p).staging.length < 8 →
      1 ≤ a.payload.length → a.payload.length ≤ 48 → adm.1 = .ok ⟨r, 1⟩ →
      ∃ t, exec (.stage p) s = .next t ∧
        answered p c .ok [BitVec.ofNat 8 ((s.port p).staging.length + 1), 1] s t
        ∧ (t.port p).staging = (s.port p).staging ++ [.live r ch]
        ∧ t.store.recs = adm.2.store.recs ∧ t.store.free = adm.2.store.free
        ∧ chunkWritten (adm.2.record r).chain 0 a.payload s t
        ∧ codesWritten (touchedBlocks (adm.2.record r).chain 0 a.payload.length) s t
        ∧ { t.chan ch with subs := (adm.2.chan ch).subs } = adm.2.chan ch
        ∧ (∀ q, (t.port q).events = (adm.2.port q).events ∧ (t.port q).lost = (adm.2.port q).lost)
        ∧ otherChansKept ch s t ∧ deviceKept s t ∧ ∀ q, q ≠ p → portKeptButEvents q s t)
  ∧ (∀ (s : State) (p : PortId) (c : Command) (i : Instr) (st : Status),
      takesNext s p c → inRange c = true → (s.port p).record.state = .present →
      (i = .stage p ∧ c.code = 0x41 ∧ 8 ≤ (s.port p).staging.length ∧ st = .full)
        ∨ (((i = .commit p ∧ c.code = 0x42) ∨ (i = .discard p ∧ c.code = 0x43)) ∧ (s.port p).staging = [] ∧ st = .empty) →
      ∃ t, exec i s = .next t ∧ answered p c st [] s t ∧ onlyPort p s t ∧ portKeptButLink p s t)

/-- COMMIT of a list without void markers: the answer is OK with the number of entries and the sequences of all, each the
next one of its channel in staging order; the list is emptied; every entry is sealed with its sequence, on QUEUE
joining the log, on LATEST standing there unless a later entry on the channel replaced it, on FANOUT listing the
ACTIVE ports whose limit leaves it unread behind the later entries, and freed where there is none; each channel's
posted count rises by the number of its entries; ARRIVAL, the skips of ports past their limit with their overruns, the
retirement of a replaced value and the forgotten seen sequence are as for seals one after another, and no port gets
another event; a DRAINING channel whose entries no port reads and that they leave empty becomes UNUSED with
CHANNEL_GONE (R99, R93, R46, R50, R54, R57, R68, R77, R81, R37; the order of those events: log 35). -/
def Obligations.CommitSealsWholeGroup : Prop :=
  ∀ (s : State) (p : PortId) (c : Command) (es : List (RecId × ChanId)),
    let seqs := groupSequences (fun ch => (s.chan ch).nextSeq) es
    let drains := fun ch => (∃ e ∈ es, e.2 = ch) ∧ (s.chan ch).kind = some .fanout ∧ portsWhere (s.chan ch).active = 0
      ∧ drained { s.chan ch with reserved := (s.chan ch).reserved - (es.filter fun e => e.2 = ch).length }
    let sealed := fun ch => (es.filter fun e => e.2 = ch).length
    tableLaw s → depthLaw s → takesNextAtTable s p c → c.code = 0x42 → c.params = [] →
    es ≠ [] → (s.port p).staging = es.map (fun e => .live e.1 e.2) → (es.map Prod.fst).Nodup →
    (∀ e ∈ es, (s.record e.1).state = .filling ∧ (s.record e.1).channel = some e.2 ∧ (s.record e.1).origin = some p
      ∧ (s.record e.1).form = some .counted ∧ (s.record e.1).claimant = none ∧ (s.chan e.2).kind.isSome = true) →
    (∀ e ∈ es, ∀ q sub, (s.chan e.2).kind = some .fanout → (s.chan e.2).sub q = some sub →
      ∃ f, sub.fan = some f ∧ 1 ≤ f.limit ∧ lag s e.2 q ≤ f.limit) →
    ∃ t, exec (.commit p) s = .next t ∧
      answered p c .ok (BitVec.ofNat 8 es.length :: seqs.flatMap fun q => enc2 q.toNat) s t
      ∧ t.port p = (((({ s.port p with staging := [] } : PortState).withXreqOf (t.port p)).withEventsOf
          (t.port p)).withLinkOf (t.port p))
      ∧ (∀ k r ch seq, es[k]? = some (r, ch) → seqs[k]? = some seq →
          let earlier := ((es.take k).filter fun e => e.2 = ch).length
          let later := ((es.drop (k + 1)).filter fun e => e.2 = ch).length
          let x := { s.record r with
            state := .sealed, sequence := some seq
            deadline := (s.record r).ttl.map fun n => s.tick + BitVec.ofNat 32 n }
          let readers := portsWhere fun q =>
            (s.chan ch).active q && ((s.chan ch).fanSub q).any fun f => decide (later < f.limit)
          (∀ q, ∀ sub ∈ (s.chan ch).sub q, sub.suspended = false →
              (sub.notify = .each ∧ later = 0) ∨ (sub.notify = .edge ∧ earlier = 0 ∧ edgeHolds s ch q sub) →
              (s.port q).accepts (arrivalEvent ch seq) = true → told (t.port q) (arrivalEvent ch seq))
          ∧ ((s.chan ch).kind = some .queue → t.record r = x ∧ r ∈ (t.chan ch).log)
          ∧ ((s.chan ch).kind = some .latest →
              (later = 0 → t.record r = x ∧ (t.chan ch).log = [r]) ∧ (0 < later → t.record r = {}))
          ∧ ((s.chan ch).kind = some .fanout →
              (readers ≠ 0 → t.record r = { x with pending := some readers } ∧ r ∈ (t.chan ch).log)
              ∧ (readers = 0 → t.record r = {})))
      ∧ (∀ e ∈ es, ∀ q, sealsSkip (sealed e.2) s e.2 q → (s.port q).accepts (chanEvent .overrun e.2) = true →
          told (t.port q) (chanEvent .overrun e.2))
      ∧ (∀ e ∈ es, (s.chan e.2).kind = some .fanout → ∀ q, ∀ sub ∈ (s.chan e.2).sub q, sub.suspended = false →
          ∀ f ∈ sub.fan, lag t e.2 q = min (lag s e.2 q + sealed e.2) f.limit
            ∧ ((t.chan e.2).sub q).map Sub.overrun = some (if lag s e.2 q + sealed e.2 ≤ f.limit then sub.overrun
                else min 255 (sub.overrun + (lag s e.2 q + sealed e.2 - f.limit))))
      ∧ (∀ e ∈ es, (s.chan e.2).kind = some .latest →
          (∀ o ∈ (s.chan e.2).log, retired (s.record o) (t.record o))
          ∧ ∀ q, ∀ sub ∈ (s.chan e.2).sub q, (t.chan e.2).sub q = some { sub with
              seen := if sub.seen ∈ ((es.zip seqs).filter fun z => z.1.2 = e.2).map (fun z => some z.2) then none
                else sub.seen })
      ∧ (∀ q, (∀ e ∈ es, ¬ sealCalls s e.2 q ∧ ¬ sealsSkip (sealed e.2) s e.2 q
            ∧ ¬ (drains e.2 ∧ ((s.chan e.2).sub q).isSome = true)) →
          (t.port q).events = (s.port q).events ∧ (t.port q).lost = (s.port q).lost)
      ∧ (∀ ch, drains ch → t.chan ch = {} ∧ ∀ q, ((s.chan ch).sub q).isSome = true →
          (s.port q).accepts (chanEvent .channelGone ch) = true → told (t.port q) (chanEvent .channelGone ch))
      ∧ (∀ ch, ¬ drains ch →
          (t.chan ch).state = (s.chan ch).state
          ∧ (t.chan ch).posted = (s.chan ch).posted + BitVec.ofNat 16 (es.filter fun e => e.2 = ch).length
          ∧ (t.chan ch).reserved = (s.chan ch).reserved - (es.filter fun e => e.2 = ch).length
          ∧ (t.chan ch).dropped = (s.chan ch).dropped)
      ∧ (∀ ch, (s.chan ch).kind = some .queue →
          (t.chan ch).log = (s.chan ch).log ++ (es.filter fun e => e.2 = ch).map Prod.fst)
      ∧ (∀ o, (∀ e ∈ es, e.1 ≠ o ∧ (s.record o).channel ≠ some e.2) → t.record o = s.record o)
      ∧ (∀ ch, (∀ e ∈ es, e.2 ≠ ch) → t.chan ch = s.chan ch) ∧ (∀ q, t.mark q = s.mark q)
      ∧ poolKept s t ∧ deviceKept s t ∧ ∀ q, q ≠ p → portKeptButEvents q s t

/-- COMMIT of a list with a void marker, answered VOIDED, and DISCARD, answered OK: nothing is sealed, every live entry is
freed, its blocks joining the free block list in staging order, the channels' counts following, a DRAINING channel
that this drains becoming UNUSED with CHANNEL_GONE, and the list is emptied (R100, R101, R37; the order of those
events: log 35). -/
def Obligations.VoidedCommitAndDiscardFreeGroup : Prop :=
  ∀ (s : State) (p : PortId) (c : Command) (i : Instr),
    let list := (s.port p).staging
    let live := liveEntries list
    takesNextAtTable s p c → c.params = [] → list ≠ [] →
    (i = .commit p ∧ c.code = 0x42 ∧ ∃ d, .void d ∈ list) ∨ (i = .discard p ∧ c.code = 0x43) →
    (live.map Prod.fst).Nodup →
    (∀ e ∈ live, (s.record e.1).state = .filling ∧ (s.record e.1).channel = some e.2
      ∧ (s.record e.1).origin = some p) →
    ∃ t, exec i s = .next t ∧
      (i = .commit p → answered p c .voided
          [BitVec.ofNat 8 (list.length - live.length), BitVec.ofNat 8 live.length] s t)
      ∧ (i = .discard p → answered p c .ok
          [BitVec.ofNat 8 live.length, BitVec.ofNat 8 (list.length - live.length)] s t)
      ∧ (t.port p).staging = []
      ∧ (∀ e ∈ live, t.record e.1 = {})
      ∧ (∀ r, r ∉ live.map Prod.fst → t.record r = s.record r)
      ∧ t.store.free = s.store.free ++ live.flatMap (fun e => (s.record e.1).chain)
      ∧ (∀ ch, (∃ e ∈ live, e.2 = ch) →
          let mine := live.filter fun e => e.2 = ch
          settledTo ch { s.chan ch with
            reserved := (s.chan ch).reserved - mine.length
            blocksInUse := (s.chan ch).blocksInUse - (mine.map fun e => (s.record e.1).chain.length).sum } s t)
      ∧ (∀ ch, ¬ (∃ e ∈ live, e.2 = ch) → t.chan ch = s.chan ch)
      ∧ poolKept s t ∧ deviceKept s t ∧ ∀ q, q ≠ p → portKeptButEvents q s t

/-! ## Fetching (chapter 6) -/

/-- FETCH with PEEK of a target: the answer carries the target's fields, the lag, the unclaimed count or whether the value
has changed for the port, and up to count bytes from the offset; the target's damaged flag is all that can change,
beside promotions at the channel (R107, R108, R106).

FETCH refused by the table, in the order of R104: NOSUB, BUSY, EMPTY, LIMIT; no message is read or consumed. -/
def Obligations.FetchPeekReadsAndKeeps : Prop :=
  (∀ (s : State) (p : PortId) (c : Command) (a : FetchParams) (r : RecId),
      let ch := a.channel
      let x := s.record r
      let n := min a.count (x.length - a.offset)
      let left := match (s.chan ch).kind with
        | some .fanout => lag s ch p
        | some .queue => ((s.chan ch).log.filter fun o => (s.record o).claimant = none).length
        | _ => match (s.chan ch).sub p with
          | some sub => if sub.seen = some (x.sequence.getD 0) then 0 else 1
          | none => 0
      let damaged := x.damaged || !(touchedBlocks x.chain a.offset n).all s.store.blockAgrees
      takesNextAtTable s p c → c.code = 0x50 → parseFetch c.params = some a → a.consume = false →
      (s.chan ch).state ≠ .unused → (s.chan ch).kind ≠ none →
      ((s.chan ch).kind = some .fanout → (s.chan ch).active p = true) →
      fetchTarget s ch p = some r → x.state = .sealed → a.offset < x.length →
      ∃ t, exec (.fetchPeek p) s = .next t ∧
        answered p c .ok (enc2 (x.sequence.getD 0).toNat ++ enc2 x.length
            ++ [BitVec.ofNat 8 ((if x.tag.isSome then 1 else 0) + (if damaged then 2 else 0))]
            ++ enc2 ((x.tag.map BitVec.toNat).getD 0)
            ++ [BitVec.ofNat 8 (if (s.chan ch).kind = some .queue then x.redeliveries else 0),
                BitVec.ofNat 8 left, BitVec.ofNat 8 n]
            ++ payloadBytes s.store.pool x.chain a.offset n) s t
        ∧ t.record r = { x with damaged := damaged } ∧ otherRecordsKept r s t
        ∧ t.store.pool = s.store.pool ∧ t.store.codes = s.store.codes ∧ t.store.free = s.store.free
        ∧ chanKept ch s t ∧ tableEventKept p ch s t
        ∧ ∀ q, (t.port q).events = (s.port q).events)
  ∧ (∀ (s : State) (p : PortId) (c : Command) (a : FetchParams) (i : Instr) (st : Status),
      let ch := a.channel
      let needsSub := (s.chan ch).kind = some .fanout ∨ ((s.chan ch).kind = some .latest ∧ a.consume = true)
      let subFits := needsSub → (s.chan ch).active p = true
      let readFits := (s.chan ch).kind = some .fanout → a.consume = true → hasReadOn s ch p = false
      takesNextAtTable s p c → c.code = 0x50 → rowFor p c = some i → parseFetch c.params = some a →
      (s.chan ch).state ≠ .unused →
      (needsSub ∧ (s.chan ch).active p = false ∧ st = .nosub)
        ∨ (subFits ∧ (s.chan ch).kind = some .fanout ∧ a.consume = true ∧ hasReadOn s ch p = true ∧ st = .busy)
        ∨ (subFits ∧ readFits ∧ fetchTarget s ch p = none ∧ st = .empty)
        ∨ (subFits ∧ readFits ∧ (∃ r, fetchTarget s ch p = some r ∧ (s.record r).length ≤ a.offset) ∧ st = .limit) →
      ∃ t, exec i s = .next t ∧
        answered p c st [] s t ∧ t.store = s.store ∧ chanKept ch s t ∧ tableEventKept p ch s t
        ∧ ∀ q, (t.port q).events = (s.port q).events)

/-- FETCH with CONSUME of a target: on FANOUT the port leaves its pending readers, on QUEUE the target leaves the log and
is retired, on LATEST it is marked seen and stays; no overrun, no dropped count, no event, but that a DRAINING channel
which this drains becomes UNUSED with CHANNEL_GONE (R109, R48, R69, R79, R116). -/
def Obligations.FetchConsumeLetsTargetGo : Prop :=
  ∀ (s : State) (p : PortId) (c : Command) (a : FetchParams) (r : RecId),
    let ch := a.channel
    let damaged := (s.record r).damaged
      || !(touchedBlocks (s.record r).chain a.offset (min a.count ((s.record r).length - a.offset))).all
          s.store.blockAgrees
    let x := { s.record r with damaged := damaged }
    let leaves := (s.chan ch).kind = some .queue ∨ ((s.chan ch).kind = some .fanout ∧ onlyReader p (s.record r) = true)
    let c' := if leaves then (s.chan ch).without s [r] else if (s.chan ch).kind = some .latest then
        (s.chan ch).modSub p fun sub => { sub with seen := x.sequence }
      else s.chan ch
    tableLaw s → takesNextAtTable s p c → c.code = 0x50 → parseFetch c.params = some a → a.consume = true →
    (s.chan ch).state ≠ .unused → (s.chan ch).kind ≠ none →
    ((s.chan ch).kind = some .fanout ∨ (s.chan ch).kind = some .latest → (s.chan ch).active p = true) →
    ((s.chan ch).kind = some .fanout → hasReadOn s ch p = false) →
    fetchTarget s ch p = some r → a.offset < x.length →
    ∃ t, exec (.fetchConsume p) s = .next t ∧
      (∃ left, answered p c .ok (enc2 (x.sequence.getD 0).toNat ++ enc2 x.length
          ++ [BitVec.ofNat 8 ((if x.tag.isSome then 1 else 0) + (if damaged then 2 else 0))]
          ++ enc2 ((x.tag.map BitVec.toNat).getD 0)
          ++ [BitVec.ofNat 8 (if (s.chan ch).kind = some .queue then x.redeliveries else 0), BitVec.ofNat 8 left,
              BitVec.ofNat 8 (min a.count (x.length - a.offset))]
          ++ payloadBytes s.store.pool x.chain a.offset (min a.count (x.length - a.offset))) s t
        ∧ ((s.chan ch).kind = some .fanout → left = lag s ch p - 1 ∧ lag t ch p = left)
        ∧ ((s.chan ch).kind = some .queue → left = (unclaimed s ch).length - 1)
        ∧ ((s.chan ch).kind = some .latest → left = 0))
      ∧ ((s.chan ch).kind = some .fanout → readerDropped p x (t.record r))
      ∧ ((s.chan ch).kind = some .queue → retired x (t.record r)
          ∧ (t.chan ch).log = (s.chan ch).log.filter (· ≠ r))
      ∧ ((s.chan ch).kind = some .latest → t.record r = x ∧ (t.chan ch).log = (s.chan ch).log
          ∧ ∀ sub ∈ (s.chan ch).sub p, (t.chan ch).sub p = some { sub with seen := x.sequence })
      ∧ otherRecordsKept r s t ∧ t.store.pool = s.store.pool ∧ t.store.codes = s.store.codes ∧ tableEventKept p ch s t
      ∧ settledTo ch c' s t ∧ (¬ drained c' → ∀ q, (t.port q).events = (s.port q).events)

/-- SKIP on a FANOUT channel: the port leaves the pending readers of its oldest n listed messages, uncounted and without
an event, but that a DRAINING channel which this drains becomes UNUSED with CHANNEL_GONE; the answer is the number
skipped, the lag left and the next sequence (R111, R116).

SKIP refused by the table: KIND on a channel that is not FANOUT, NOSUB without an ACTIVE subscription, BUSY with an
open read on the channel; nothing changes but promotions at the channel (R111, R53). -/
def Obligations.SkipDropsOldestListed : Prop :=
  (∀ (s : State) (p : PortId) (c : Command) (a : SkipParams),
      let ch := a.channel
      let gone := (listed s ch p).take a.count
      let c' := (s.chan ch).without s (gone.filter fun r => onlyReader p (s.record r))
      tableLaw s → takesNextAtTable s p c → c.code = 0x51 → parseSkip c.params = some a →
      (s.chan ch).state ≠ .unused → (s.chan ch).kind = some .fanout → (s.chan ch).active p = true →
      hasReadOn s ch p = false →
      ∃ t, exec (.skip p) s = .next t ∧
        answered p c .ok ([BitVec.ofNat 8 gone.length, BitVec.ofNat 8 (lag s ch p - gone.length)]
            ++ enc2 (match (listed s ch p)[a.count]? with
              | some r => ((s.record r).sequence.getD 0).toNat
              | none => (s.chan ch).nextSeq.toNat)) s t
        ∧ lag t ch p = lag s ch p - gone.length
        ∧ (∀ r, r ∈ gone → readerDropped p (s.record r) (t.record r))
        ∧ (∀ r, r ∉ gone → t.record r = s.record r)
        ∧ settledTo ch c' s t ∧ t.store.pool = s.store.pool ∧ t.store.codes = s.store.codes ∧ tableEventKept p ch s t
        ∧ (¬ drained c' → ∀ q, (t.port q).events = (s.port q).events))
  ∧ (∀ (s : State) (p : PortId) (c : Command) (a : SkipParams) (st : Status),
      let ch := a.channel
      takesNextAtTable s p c → c.code = 0x51 → parseSkip c.params = some a → (s.chan ch).state ≠ .unused →
      ((s.chan ch).kind ≠ some .fanout ∧ st = .kind)
        ∨ ((s.chan ch).kind = some .fanout ∧ (s.chan ch).active p = false ∧ st = .nosub)
        ∨ ((s.chan ch).kind = some .fanout ∧ (s.chan ch).active p = true ∧ hasReadOn s ch p = true ∧ st = .busy) →
      ∃ t, exec (.skip p) s = .next t ∧
        answered p c st [] s t ∧ t.store = s.store ∧ chanKept ch s t ∧ tableEventKept p ch s t
        ∧ ∀ q, (t.port q).events = (s.port q).events)

/-! ## Streams and data frames (chapter 7) -/

/-- OPEN_POST with the context IDLE, admitted: the context becomes WRITING with the values of R118 on the record admitted,
the last outcome kept; the store and the channel stand as the admission left them but for promotions; the answer is the
length and the number evicted. A refused admission leaves the context and is answered with its status; with the context
not IDLE the answer is BUSY and nothing changes (R118).

OPEN_FETCH of a target that the port does not hold: the port joins its holders and, on QUEUE, claims it; the context
becomes READING with the values of R119, the last outcome kept; an absent tag is FFFFh in the answer (DEDUCED, log
16); nothing else changes but promotions at the channel. With the context not IDLE the answer is BUSY and nothing
changes (R119, R14, R70).

OPEN_FETCH refused by the table: NOSUB where the read needs an ACTIVE subscription, EMPTY without a target, BUSY when
the store refuses the hold because the port holds the target; the context stays (R119, R14). -/
def Obligations.OpenPostAndOpenFetch : Prop :=
  (∀ (s : State) (p : PortId) (c : Command) (a : OpenPostParams),
      let ch := a.channel
      let adm := admission (streamAllocation p a) (popCommand p s)
      takesNextAtTable s p c → c.code = 0x60 → parseOpenPost c.params = some a → (s.chan ch).state ≠ .unused →
      ∃ t, exec (.openPost p) s = .next t ∧
        ((s.port p).stream.state = .idle →
          t.store = adm.2.store ∧ (∀ q, (t.port q).events = (adm.2.port q).events)
          ∧ { t.chan ch with subs := (adm.2.chan ch).subs } = adm.2.chan ch
          ∧ otherChansKept ch s t ∧ deviceKept s t ∧ (∀ q, q ≠ p → portKeptButEvents q s t)
          ∧ (∀ m, adm.1 = .ok m →
            answered p c .ok (enc2 a.length ++ [BitVec.ofNat 8 m.evicted]) s t
            ∧ t.port p = (((({ s.port p with stream :=
                { state := .writing, direction := some .write,
                  mode := some (if a.length = 0 then .openEnded else .counted), channel := some ch,
                  record := some m.record, byteCount := 0,
                  remaining := if a.length = 0 then none else some a.length, lastLength := 0, expected := 0,
                  burst := a.burst, progress := 0, paced := false, consume := false, damageSeen := false,
                  rejection := none, outcome := (s.port p).stream.outcome, xreq := false, awaitFall := false } }
                : PortState).withXreqOf (t.port p)).withEventsOf (t.port p)).withLinkOf (t.port p)))
          ∧ (∀ e, adm.1 = .error e → answered p c e [] s t ∧ portKeptButEventsAndLink p s t))
        ∧ ((s.port p).stream.state ≠ .idle → answered p c .busy [] s t ∧ onlyPort p s t ∧ portKeptButLink p s t))
  ∧ (∀ (s : State) (p : PortId) (c : Command) (a : OpenFetchParams) (r : RecId),
      let ch := a.channel
      let x := s.record r
      takesNextAtTable s p c → c.code = 0x61 → parseOpenFetch c.params = some a → (s.chan ch).state ≠ .unused →
      ((s.chan ch).kind = some .fanout ∨ ((s.chan ch).kind = some .latest ∧ a.consume = true) →
        (s.chan ch).active p = true) →
      fetchTarget s ch p = some r → x.state = .sealed → inSet x.holders p = false →
      ∃ t, exec (.openFetch p) s = .next t ∧
        ((s.port p).stream.state = .idle →
          answered p c .ok (enc2 (x.sequence.getD 0).toNat ++ enc2 x.length ++ encFlag x.tag.isSome
              ++ (match x.tag with | some tag => enc2 tag.toNat | none => [0xFF, 0xFF])
              ++ [BitVec.ofNat 8 (if (s.chan ch).kind = some .queue then x.redeliveries else 0)]
              ++ encFlag x.damaged) s t
          ∧ t.record r = { x with holders := insertPort x.holders p,
                                  claimant := if (s.chan ch).kind = some .queue then some p else x.claimant }
          ∧ otherRecordsKept r s t ∧ t.store.free = s.store.free ∧ t.store.pool = s.store.pool
          ∧ t.store.codes = s.store.codes
          ∧ chanKept ch s t ∧ otherChansKept ch s t ∧ deviceKept s t ∧ (∀ q, q ≠ p → portKept q s t)
          ∧ t.port p = ((({ s.port p with stream :=
                { state := .reading, direction := some .read, mode := some .counted, channel := some ch,
                  record := some r, byteCount := 0, remaining := some x.length, lastLength := 0, expected := 0,
                  burst := a.burst, progress := 0, paced := false, consume := a.consume, damageSeen := x.damaged,
                  rejection := none, outcome := (s.port p).stream.outcome, xreq := false, awaitFall := false } }
                : PortState).withXreqOf (t.port p)).withLinkOf (t.port p)))
        ∧ ((s.port p).stream.state ≠ .idle → answered p c .busy [] s t ∧ onlyPort p s t ∧ portKeptButLink p s t))
  ∧ (∀ (s : State) (p : PortId) (c : Command) (a : OpenFetchParams) (st : Status),
      let ch := a.channel
      let needsSub := (s.chan ch).kind = some .fanout ∨ ((s.chan ch).kind = some .latest ∧ a.consume = true)
      let subFits := needsSub → (s.chan ch).active p = true
      takesNextAtTable s p c → c.code = 0x61 → parseOpenFetch c.params = some a → (s.chan ch).state ≠ .unused →
      (s.port p).stream.state = .idle →
      (needsSub ∧ (s.chan ch).active p = false ∧ st = .nosub)
        ∨ (subFits ∧ fetchTarget s ch p = none ∧ st = .empty)
        ∨ (subFits ∧ (∃ r, fetchTarget s ch p = some r ∧ inSet (s.record r).holders p = true) ∧ st = .busy) →
      ∃ t, exec (.openFetch p) s = .next t ∧
        answered p c st [] s t ∧ t.store = s.store ∧ chanKept ch s t ∧ tableEventKept p ch s t
        ∧ portKeptButLink p s t ∧ ∀ q, (t.port q).events = (s.port q).events)

/-- STREAM_END of an open-ended write of at least one byte: the record is sealed with the channel's next sequence, the
context is IDLE with outcome SEALED and the sequence, its counts standing (log 19), STREAM_DONE is raised to the port,
and the answer is the sequence, the length and the results of the kind (log 15). ARRIVAL, the skips of ports at their
limit with OVERRUN and the retirement of an earlier value are those of a seal, and no other port gets another event. A
message that no port reads is freed at once, and a DRAINING channel that it leaves empty becomes UNUSED with
CHANNEL_GONE to its subscribers (R128, R93, R46, R50, R54, R57, R68, R77, R81, R37).

STREAM_END refused by the controller: ORDER in IDLE, in a count-mode write and in READING; LENGTH in an open-ended
write of no bytes; nothing changes (R128). -/
def Obligations.StreamEndSealsOpenWrite : Prop :=
  (∀ (s : State) (p : PortId) (c : Command) (r : RecId) (ch : ChanId) (kind : Kind),
      let x := (s.port p).stream
      let readers := portsWhere (s.chan ch).active
      let unread := kind = .fanout ∧ readers = 0
      let empties := unread ∧ (s.chan ch).state = .draining ∧ (s.chan ch).log = [] ∧ (s.chan ch).reserved = 1
        ∧ (s.chan ch).withdrawn = 0
      tableLaw s → depthLaw s → (∀ q f, (s.chan ch).fanSub q = some f → 1 ≤ f.limit) →
      takesNextAtTable s p c → c.code = 0x62 → c.params = [] →
      x.state = .writing → x.mode = some .openEnded → 0 < x.byteCount → x.record = some r → x.channel = some ch →
      (s.record r).state = .filling → (s.record r).channel = some ch → (s.record r).origin = some p →
      (s.record r).form = some .openEnded → 0 < (s.record r).length → (s.chan ch).kind = some kind →
      ∃ t, exec (.streamEnd p) s = .next t ∧
        answered p c .ok (enc2 (s.chan ch).nextSeq.toNat ++ enc2 (s.record r).length
            ++ (if kind = .fanout then [BitVec.ofNat 8 (members readers).length] else [])
            ++ (if kind = .latest then [if (s.chan ch).log = [] then 0 else 1] else [])) s t
        ∧ t.port p = (((({ s.port p with stream :=
            { x with state := .idle, direction := none, mode := none, channel := none, record := none,
                     outcome := some (.sealed (s.chan ch).nextSeq), xreq := false, awaitFall := false } }
            : PortState).withXreqOf (t.port p)).withEventsOf (t.port p)).withLinkOf (t.port p))
        ∧ (t.port p).stream.xreq = false
        ∧ ((s.port p).accepts (chanEvent .streamDone ch) = true → told (t.port p) (chanEvent .streamDone ch))
        ∧ sealDelivered ch r (s.chan ch).nextSeq s t
        ∧ (∀ q, q ≠ p → ¬ sealCalls s ch q → ¬ sealsSkip 1 s ch q → ¬ (empties ∧ ((s.chan ch).sub q).isSome = true) →
            (t.port q).events = (s.port q).events ∧ (t.port q).lost = (s.port q).lost)
        ∧ (unread → t.record r = {})
        ∧ (¬ unread →
            t.record r = { s.record r with
              state := .sealed, sequence := some (s.chan ch).nextSeq
              deadline := (s.record r).ttl.map fun n => s.tick + BitVec.ofNat 32 n
              pending := if kind = .fanout then some readers else (s.record r).pending }
            ∧ (t.chan ch).log.getLast? = some r)
        ∧ (¬ empties →
            (t.chan ch).state = (s.chan ch).state
            ∧ (t.chan ch).nextSeq = (if (s.chan ch).nextSeq = 65535 then 1 else (s.chan ch).nextSeq + 1)
            ∧ (t.chan ch).posted = (s.chan ch).posted + 1 ∧ (t.chan ch).reserved = (s.chan ch).reserved - 1
            ∧ (t.chan ch).dropped = (s.chan ch).dropped ∧ (unread → (t.chan ch).log = (s.chan ch).log))
        ∧ (empties → t.chan ch = {} ∧ ∀ q, ((s.chan ch).sub q).isSome = true →
            (s.port q).accepts (chanEvent .channelGone ch) = true → told (t.port q) (chanEvent .channelGone ch))
        ∧ (kind = .queue → (t.chan ch).log = (s.chan ch).log ++ [r] ∧ otherRecordsKept r s t)
        ∧ poolKept s t ∧ otherChansKept ch s t ∧ deviceKept s t ∧ ∀ q, q ≠ p → portKeptButEvents q s t)
  ∧ (∀ (s : State) (p : PortId) (c : Command) (st : Status),
      takesNext s p c → (s.port p).record.state = .present → c.code = 0x62 → c.params = [] →
      ((s.port p).stream.state = .idle ∧ st = .order)
        ∨ ((s.port p).stream.state = .writing ∧ (s.port p).stream.mode = some .counted ∧ st = .order)
        ∨ ((s.port p).stream.state = .reading ∧ st = .order)
        ∨ ((s.port p).stream.state = .writing ∧ (s.port p).stream.mode = some .openEnded
            ∧ (s.port p).stream.byteCount = 0 ∧ st = .length) →
      ∃ t, exec (.streamEnd p) s = .next t ∧ answered p c st [] s t ∧ onlyPort p s t ∧ portKeptButLink p s t)

/-- STREAM_END in READ_DONE on an OPEN channel: the end-of-read is answered by kind, mode and the record's state, the
port's hold is released after it, the context is IDLE with outcome ENDED, its counts standing (log 19), and the answer
carries the sequence, the length, DAMAGED, whether the end-of-read left or found the record withdrawn, and on FANOUT
with consume the lag (log 15; R129, R49, R71, R80, R15).

STREAM_END in READ_DONE on a DRAINING channel: the answer with its results, the record and the context with its
standing counts (log 19) are as on an OPEN one, the lag of FANOUT with consume as the read leaves it (log 15); the log
and the counts follow, and where the channel has then drained it becomes UNUSED with CHANNEL_GONE to its subscribers
(R129, R49, R71, R80, R15, R29, R37, R38). -/
def Obligations.StreamEndEndsRead : Prop :=
  (∀ (s : State) (p : PortId) (c : Command) (r : RecId) (ch : ChanId) (kind : Kind),
      let x := (s.port p).stream
      let m := s.record r
      let y := { m with holders := erasePort m.holders p }
      let withdrawn := m.state = .withdrawn ∨ (kind = .queue ∧ x.consume = true)
        ∨ (kind = .fanout ∧ x.consume = true ∧ m.lists p = true ∧ erasePort (m.pending.getD 0) p = 0)
      tableLaw s → takesNextAtTable s p c → c.code = 0x62 → c.params = [] →
      x.state = .readDone → x.record = some r → x.channel = some ch →
      m.state = .sealed ∨ m.state = .withdrawn → m.channel = some ch → inSet m.holders p = true →
      (m.state = .sealed → kind = .queue → m.claimant = some p) →
      (s.chan ch).state = .opened → (s.chan ch).kind = some kind →
      ∃ t, exec (.streamEnd p) s = .next t ∧
        (∃ st flag,
          answered p c st (enc2 (m.sequence.getD 0).toNat ++ enc2 m.length ++ encFlag x.damageSeen ++ encFlag flag
              ++ (if kind = .fanout ∧ x.consume = true then [BitVec.ofNat 8 (lag t ch p)] else [])) s t
          ∧ (flag = true ↔ withdrawn)
          ∧ (m.state = .withdrawn → st = (if kind = .queue ∨ x.consume = true then .withdrawn else .ok)
              ∧ (y.holders = 0 → t.record r = {}) ∧ (y.holders ≠ 0 → t.record r = y))
          ∧ (m.state = .sealed ∧ kind = .fanout ∧ x.consume = true →
              (m.lists p = true → st = .ok ∧ readerDropped p y (t.record r))
              ∧ (m.lists p = false → st = .skipped ∧ t.record r = y))
          ∧ (m.state = .sealed ∧ kind = .queue ∧ x.consume = true →
              st = .ok ∧ retired y (t.record r) ∧ (t.chan ch).log = (s.chan ch).log.filter (· ≠ r))
          ∧ (m.state = .sealed ∧ kind = .queue ∧ x.consume = false → st = .ok ∧ t.record r = { y with claimant := none })
          ∧ (m.state = .sealed ∧ kind = .latest ∧ x.consume = true → st = .ok ∧ t.record r = y
              ∧ ∀ sub ∈ (s.chan ch).sub p, (t.chan ch).sub p = some { sub with seen := m.sequence })
          ∧ (m.state = .sealed ∧ kind ≠ .queue ∧ x.consume = false → st = .ok ∧ t.record r = y ∧ chanKept ch s t))
        ∧ t.port p = ((({ s.port p with stream :=
            { x with state := .idle, direction := none, mode := none, channel := none, record := none,
                     outcome := some .ended, xreq := false, awaitFall := false } }
            : PortState).withXreqOf (t.port p)).withLinkOf (t.port p))
        ∧ (t.chan ch).dropped = (s.chan ch).dropped ∧ (t.chan ch).posted = (s.chan ch).posted
        ∧ otherRecordsKept r s t ∧ poolKept s t ∧ otherChansKept ch s t ∧ deviceKept s t ∧ ∀ q, q ≠ p → portKept q s t)
  ∧ (∀ (s : State) (p : PortId) (c : Command) (r : RecId) (ch : ChanId) (kind : Kind),
      let x := (s.port p).stream
      let m := s.record r
      let y := { m with holders := erasePort m.holders p }
      let withdrawn := m.state = .withdrawn ∨ (kind = .queue ∧ x.consume = true)
        ∨ (kind = .fanout ∧ x.consume = true ∧ m.lists p = true ∧ erasePort (m.pending.getD 0) p = 0)
      let leaves := m.state = .sealed ∧ x.consume = true
        ∧ (kind = .queue ∨ (kind = .fanout ∧ m.lists p = true ∧ erasePort (m.pending.getD 0) p = 0))
      let freed := (leaves ∨ m.state = .withdrawn) ∧ y.holders = 0
      let lagLeft := ((listed s ch p).filter (· ≠ r)).length
      let c' := { (if m.state = .sealed ∧ kind = .latest ∧ x.consume = true then
            (s.chan ch).modSub p fun sub => { sub with seen := m.sequence } else s.chan ch) with
        log := if leaves then (s.chan ch).log.filter (· ≠ r) else (s.chan ch).log
        withdrawn := if leaves ∧ y.holders ≠ 0 then (s.chan ch).withdrawn + 1
          else if freed ∧ ¬ leaves then (s.chan ch).withdrawn - 1 else (s.chan ch).withdrawn
        blocksInUse := if freed then (s.chan ch).blocksInUse - m.chain.length else (s.chan ch).blocksInUse }
      tableLaw s → takesNextAtTable s p c → c.code = 0x62 → c.params = [] →
      x.state = .readDone → x.record = some r → x.channel = some ch →
      m.state = .sealed ∨ m.state = .withdrawn → m.channel = some ch → inSet m.holders p = true →
      (m.state = .sealed → kind = .queue → m.claimant = some p) →
      (s.chan ch).state = .draining → (s.chan ch).kind = some kind →
      ∃ t, exec (.streamEnd p) s = .next t ∧
        (∃ st flag,
          answered p c st (enc2 (m.sequence.getD 0).toNat ++ enc2 m.length ++ encFlag x.damageSeen ++ encFlag flag
              ++ (if kind = .fanout ∧ x.consume = true then [BitVec.ofNat 8 lagLeft] else [])) s t
          ∧ (flag = true ↔ withdrawn)
          ∧ (m.state = .withdrawn → st = (if kind = .queue ∨ x.consume = true then .withdrawn else .ok)
              ∧ (y.holders = 0 → t.record r = {}) ∧ (y.holders ≠ 0 → t.record r = y))
          ∧ (m.state = .sealed ∧ kind = .fanout ∧ x.consume = true →
              (m.lists p = true → st = .ok ∧ readerDropped p y (t.record r))
              ∧ (m.lists p = false → st = .skipped ∧ t.record r = y))
          ∧ (m.state = .sealed ∧ kind = .queue ∧ x.consume = true → st = .ok ∧ retired y (t.record r))
          ∧ (m.state = .sealed ∧ kind = .queue ∧ x.consume = false → st = .ok ∧ t.record r = { y with claimant := none })
          ∧ (m.state = .sealed ∧ (kind = .latest ∨ (kind = .fanout ∧ x.consume = false)) → st = .ok ∧ t.record r = y))
        ∧ settledTo ch c' s t
        ∧ t.port p = (((({ s.port p with stream :=
            { x with state := .idle, direction := none, mode := none, channel := none, record := none,
                     outcome := some .ended, xreq := false, awaitFall := false } }
            : PortState).withXreqOf (t.port p)).withEventsOf (t.port p)).withLinkOf (t.port p))
        ∧ (¬ drained c' → ∀ q, (t.port q).events = (s.port q).events ∧ (t.port q).lost = (s.port q).lost)
        ∧ otherRecordsKept r s t ∧ poolKept s t ∧ otherChansKept ch s t ∧ deviceKept s t
        ∧ ∀ q, q ≠ p → portKeptButEvents q s t)

/-- STREAM_STOP outside IDLE: the context is IDLE with outcome STOPPED, its counts standing (DEDUCED, log 19), the abort
of a written record, or the release of a held one with an abandonment on QUEUE, is handed over, STREAM_ABORTED
(STOPPED) is raised to the port, and the answer is the byte count, which does not wait for the table (DEDUCED, log 9).
In IDLE the answer is ORDER and nothing changes (R130). -/
def Obligations.StreamStopHandsOverCleanup : Prop :=
  ∀ (s : State) (p : PortId) (c : Command) (r : RecId) (ch : ChanId),
    let x := (s.port p).stream
    takesNext s p c → c.code = 0x63 → c.params = [] → (s.port p).record.state = .present →
    ∃ t, exec (.streamStop p) s = .next t ∧
      onlyPort p s t
      ∧ (x.state = .idle → answered p c .order [] s t ∧ portKeptButLink p s t)
      ∧ (x.state ≠ .idle → x.record = some r → x.channel = some ch →
          t.port p = ((({ s.port p with
            stream := { x with state := .idle, direction := none, mode := none, channel := none, record := none,
                               outcome := some .stopped, xreq := false, awaitFall := false }
            link := (s.port p).link.answering c .ok (enc2 x.byteCount)
            toTable := (s.port p).toTable ++ (if x.state = .writing then [.abort r ch]
              else if (s.chan ch).kind = some .queue then [.abandon r ch] else [])
            releases := (s.port p).releases ++ (if x.state = .writing then [] else [r]) }
            : PortState).withXreqOf (t.port p)).withEventsOf (t.port p))
          ∧ (t.port p).stream.xreq = false
          ∧ ((s.port p).accepts (abortedEvent ch .stopped) = true → told (t.port p) (abortedEvent ch .stopped)))

/-- A DATA_OUT frame whose chunk is taken as new and does not end the message: the n bytes are written at the byte count
and nowhere else, the check codes of their blocks following; the counts move as R122 gives; a burst that completes
sets paced. In count mode the record stays as it is; an open-ended record's length follows, and the chain gains the
first free block when the bytes need it, no DEFERRED subscription of the channel being promoted by that extension
(DEDUCED, log 39) (the row includes the rise that ends the frame, the model's choice, log 20; R2, R120, R121, R122,
R127, R91).

XREQ of an open-ended write: at the end of a DATA_OUT frame, XREQ of the port is asserted exactly while paced is clear
and the room is above 0, or for a burst at least the burst; and wherever the frame took a block from the pool, XREQ of
every other port's open-ended write follows its own room, which counts the free blocks left (R126, R134).

XREQ of an open-ended write at every command: where the command changed the length of the free block list, or the
blocks in use or the quota of the write's channel, XREQ follows the room as it then stands (R126). -/
def Obligations.DataOutWritesChunk : Prop :=
  (∀ (s : State) (p : PortId) (rest : List Byte) (chunk : Byte) (data : List Byte) (r : RecId) (ch : ChanId)
        (b : BlockId) (others : List BlockId),
      let x := (s.port p).stream
      let m := s.record r
      let last := x.byteCount + data.length
      let counted := x.mode = some .counted ∧ m.form = some .counted ∧ (∃ left, x.remaining = some left
        ∧ data.length < left ∧ x.byteCount + left = m.length) ∧ m.length ≤ 64 * m.chain.length
      let fits := x.mode = some .openEnded ∧ m.form = some .openEnded ∧ x.remaining = none ∧ last ≤ 4096
        ∧ last ≤ 64 * m.chain.length
      let grows := x.mode = some .openEnded ∧ m.form = some .openEnded ∧ x.remaining = none ∧ last ≤ 4096
        ∧ 64 * m.chain.length < last ∧ x.byteCount ≤ 64 * m.chain.length ∧ (s.port p).toTable = []
        ∧ (s.chan ch).blocksInUse + 1 ≤ (s.chan ch).quota ∧ s.store.free = b :: others ∧ b ∉ m.chain
      poolLaw s → takesFrame s p → parseDataOut rest = some (chunk, data) →
      (s.port p).record.state ≠ .paused → x.state = .writing → x.record = some r → x.channel = some ch →
      x.isResend chunk = false → chunk = x.expected →
      m.state = .filling → m.origin = some p → m.channel = some ch → m.chain.Nodup → (s.chan ch).state ≠ .unused →
      counted ∨ fits ∨ grows →
      ∃ t, exec (.dataOut p rest) s = .next t ∧
        frameEnded p (0x03 :: rest) (some .accepted) (s.port p).link.commands s t
        ∧ chunkWritten (t.record r).chain x.byteCount data s t
        ∧ codesWritten (touchedBlocks (t.record r).chain x.byteCount data.length) s t
        ∧ (counted → t.record r = m)
        ∧ (fits → t.record r = { m with length := max m.length last })
        ∧ (grows → t.record r = { m with length := max m.length last, chain := m.chain ++ [b] })
        ∧ t.store.free = (if 64 * m.chain.length < last then others else s.store.free)
        ∧ t.chan ch = { s.chan ch with
            blocksInUse := if 64 * m.chain.length < last then (s.chan ch).blocksInUse + 1 else (s.chan ch).blocksInUse }
        ∧ otherRecordsKept r s t ∧ otherChansKept ch s t ∧ deviceKept s t ∧ (∀ q, q ≠ p → portKept q s t)
        ∧ t.port p = ((({ s.port p with
            csLow := false
            stream := { x with
              byteCount := last
              remaining := x.remaining.map (· - data.length)
              lastLength := data.length
              expected := x.expected + 1
              paced := x.paced || (x.burst != 0 && decide (x.burst ≤ x.progress + data.length)) } }
            : PortState).withXreqOf (t.port p)).withLinkOf (t.port p))
        ∧ (x.xreq = true → (t.port p).stream.progress = x.progress + data.length))
  ∧ (∀ (s : State) (p : PortId) (rest : List Byte),
      takesFrame s p →
      ∃ t, exec (.dataOut p rest) s = .next t ∧
        ∀ q r ch,
          let x := (t.port q).stream
          let room := roomFor ((t.chan ch).quota - (t.chan ch).blocksInUse) t.store.free.length
            (t.record r).chain.length x.byteCount
          (parseDataOut rest).isSome = true → x.openWrite = true → x.record = some r → x.channel = some ch →
          q = p ∨ t.store.free.length ≠ s.store.free.length →
          (x.xreq = true ↔ (if x.burst = 0 then 0 < room else x.burst ≤ room) ∧ x.paced = false
            ∧ (t.port q).record.state ≠ .paused ∧ x.awaitFall = false))
  ∧ (∀ (s : State) (i : Instr),
      ∃ t, exec i s = .next t ∧
        ∀ q r ch,
          let x := (t.port q).stream
          let room := roomFor ((t.chan ch).quota - (t.chan ch).blocksInUse) t.store.free.length
            (t.record r).chain.length x.byteCount
          x.openWrite = true → x.record = some r → x.channel = some ch →
          t.store.free.length ≠ s.store.free.length ∨ (t.chan ch).blocksInUse ≠ (s.chan ch).blocksInUse
            ∨ (t.chan ch).quota ≠ (s.chan ch).quota →
          (x.xreq = true ↔ (if x.burst = 0 then 0 < room else x.burst ≤ room) ∧ x.paced = false
            ∧ (t.port q).record.state ≠ .paused ∧ x.awaitFall = false))

/-- A DATA_OUT frame that brings a count-mode write to its last byte: the bytes are written, the record is sealed with the
channel's next sequence, the context is IDLE with outcome SEALED, its counts standing (log 19), XREQ is released and
STREAM_DONE is raised to the port. ARRIVAL, the skips of ports at their limit with OVERRUN and the retirement of an
earlier value are those of a seal, and no other port gets another event. A message that no port reads is freed at
once, and a DRAINING channel that it leaves empty becomes UNUSED (R122, R93, R46, R50, R54, R57, R68, R77, R81, R37).

The seal that a DATA_OUT frame asks for is taken behind what the port handed over earlier, its pause and resume
notices and the aborts of admissions that a port reset left, which the table then takes first, within the frame's
event: the mark that the seal reads is PRESENT again (R25, R45, R92, R165; log 10).

A DATA_OUT frame that is not taken as new: before READY, and in a transaction begun before it (DEDUCED, log 21), it is
REFUSED; a bad form or CRC is CHECK; a resend is ACCEPTED with no effect; otherwise it is REJECTED with the reason of
the first failing check, which the context keeps (R161, R120, R121). Nothing else changes; the row includes the rise
that ends the frame (the model's choice, log 20). -/
def Obligations.DataOutLastByteSeals : Prop :=
  (∀ (s : State) (p : PortId) (rest : List Byte) (chunk : Byte) (data : List Byte) (r : RecId) (ch : ChanId)
        (kind : Kind),
      let x := (s.port p).stream
      let m := s.record r
      let readers := portsWhere (s.chan ch).active
      let unread := (s.chan ch).kind = some .fanout ∧ readers = 0
      let empties := unread ∧ (s.chan ch).state = .draining ∧ (s.chan ch).log = [] ∧ (s.chan ch).reserved = 1
        ∧ (s.chan ch).withdrawn = 0
      tableLaw s → depthLaw s → (∀ q f, (s.chan ch).fanSub q = some f → 1 ≤ f.limit) →
      poolLaw s → takesFrame s p → parseDataOut rest = some (chunk, data) → (s.port p).toTable = [] →
      (s.port p).record.state ≠ .paused → x.state = .writing → x.record = some r → x.channel = some ch →
      x.isResend chunk = false → chunk = x.expected → x.mode = some .counted → x.remaining = some data.length →
      m.state = .filling → m.origin = some p → m.channel = some ch → m.form = some .counted → m.chain.Nodup →
      (s.chan ch).kind = some kind → x.byteCount + data.length = m.length → m.length ≤ 64 * m.chain.length →
      ∃ t, exec (.dataOut p rest) s = .next t ∧
        frameEnded p (0x03 :: rest) (some .accepted) (s.port p).link.commands s t
        ∧ chunkWritten m.chain x.byteCount data s t
        ∧ codesWritten (touchedBlocks m.chain x.byteCount data.length) s t
        ∧ t.port p = (((({ s.port p with
            csLow := false
            stream := { x with
              state := .idle, direction := none, mode := none, channel := none, record := none
              byteCount := m.length, remaining := some 0, lastLength := data.length, expected := x.expected + 1
              paced := x.paced || x.burst != 0
              outcome := some (.sealed (s.chan ch).nextSeq), awaitFall := false } }
            : PortState).withXreqOf (t.port p)).withEventsOf (t.port p)).withLinkOf (t.port p))
        ∧ (t.port p).stream.xreq = false
        ∧ ((s.port p).accepts (chanEvent .streamDone ch) = true → told (t.port p) (chanEvent .streamDone ch))
        ∧ (¬ empties → (t.chan ch).state = (s.chan ch).state
            ∧ (t.chan ch).posted = (s.chan ch).posted + 1 ∧ (t.chan ch).reserved = (s.chan ch).reserved - 1
            ∧ (t.chan ch).dropped = (s.chan ch).dropped)
        ∧ (empties → t.chan ch = {} ∧ ∀ q, ((s.chan ch).sub q).isSome = true →
            (s.port q).accepts (chanEvent .channelGone ch) = true → told (t.port q) (chanEvent .channelGone ch))
        ∧ sealDelivered ch r (s.chan ch).nextSeq s t
        ∧ (∀ q, q ≠ p → ¬ sealCalls s ch q → ¬ sealsSkip 1 s ch q → ¬ (empties ∧ ((s.chan ch).sub q).isSome = true) →
            (t.port q).events = (s.port q).events ∧ (t.port q).lost = (s.port q).lost)
        ∧ (unread → t.record r = {})
        ∧ (¬ unread →
            (t.record r).state = .sealed ∧ (t.record r).sequence = some (s.chan ch).nextSeq
            ∧ (t.record r).length = m.length ∧ (t.record r).chain = m.chain ∧ (t.chan ch).log.getLast? = some r)
        ∧ otherChansKept ch s t ∧ deviceKept s t ∧ ∀ q, q ≠ p → portKeptButEvents q s t)
  ∧ (∀ (s : State) (p : PortId) (rest : List Byte) (chunk : Byte) (data : List Byte) (r : RecId) (ch : ChanId)
        (notices : List TableMsg),
      let x := (s.port p).stream
      let m := s.record r
      tableLaw s → takesFrame s p → parseDataOut rest = some (chunk, data) →
      (s.port p).toTable = notices ++ [.resumeNotice] →
      (∀ n ∈ notices, n = .pauseNotice ∨ n = .resumeNotice ∨ ∃ o d, n = .abort o d ∧ o ≠ r) →
      (s.port p).record.state ≠ .paused → x.state = .writing → x.record = some r → x.channel = some ch →
      x.isResend chunk = false → chunk = x.expected → x.mode = some .counted → x.remaining = some data.length →
      m.state = .filling → m.origin = some p → m.channel = some ch → m.form = some .counted →
      x.byteCount + data.length = m.length → m.length ≤ 64 * m.chain.length → (s.chan ch).state = .opened →
      ∃ t, exec (.dataOut p rest) s = .next t ∧
        frameEnded p (0x03 :: rest) (some .accepted) (s.port p).link.commands s t
        ∧ (t.port p).toTable = [] ∧ t.mark p = .present ∧ (∀ q, q ≠ p → t.mark q = s.mark q)
        ∧ (t.port p).stream.outcome = some (.sealed (s.chan ch).nextSeq)
        ∧ (t.chan ch).posted = (s.chan ch).posted + 1
        ∧ (∀ f, (s.chan ch).active p = true → (t.chan ch).fanSub p = some f → f.requested = .blocking →
            (s.chan ch).kind = some .fanout → lag t ch p + (t.chan ch).reserved ≤ f.limit →
            (t.chan ch).effective p ≠ some .deferred)
        ∧ (∀ o d, .abort o d ∈ notices → (s.record o).state = .filling → (s.record o).channel = some d →
            (s.record o).origin = some p → t.record o = {})
        ∧ ∀ q, q ≠ p → portKeptButEvents q s t)
  ∧ (∀ (s : State) (p : PortId) (rest : List Byte) (result : FrameResult) (why : Option Rejection),
      let x := (s.port p).stream
      let now := (s.port p).record.state
      (refusesFrame s p ∧ result = .refused ∧ why = x.rejection)
        ∨ (takesFrame s p ∧ parseDataOut rest = none ∧ result = .check ∧ why = x.rejection)
        ∨ (∃ chunk data, takesFrame s p ∧ parseDataOut rest = some (chunk, data)
            ∧ ((now = .paused ∧ result = .rejected ∧ why = some .paused)
              ∨ (now ≠ .paused ∧ x.state ≠ .writing ∧ result = .rejected ∧ why = some .state)
              ∨ (now ≠ .paused ∧ x.state = .writing ∧ chunk = x.expected - 1 ∧ x.lastLength ≠ 0
                  ∧ result = .accepted ∧ why = x.rejection)
              ∨ (now ≠ .paused ∧ x.state = .writing ∧ chunk ≠ x.expected ∧ (chunk ≠ x.expected - 1 ∨ x.lastLength = 0)
                  ∧ result = .rejected ∧ why = some .order)
              ∨ (now ≠ .paused ∧ x.state = .writing ∧ chunk = x.expected ∧ x.record.isSome = true ∧ x.channel.isSome = true
                  ∧ ((∃ left, x.mode = some .counted ∧ x.remaining = some left ∧ left < data.length)
                    ∨ (x.mode = some .openEnded ∧ 4096 < x.byteCount + data.length))
                  ∧ result = .rejected ∧ why = some .length)
              ∨ (∃ r ch, now ≠ .paused ∧ x.state = .writing ∧ chunk = x.expected ∧ x.record = some r
                  ∧ x.channel = some ch ∧ x.mode = some .openEnded ∧ x.byteCount + data.length ≤ 4096
                  ∧ 64 * (s.record r).chain.length < x.byteCount + data.length ∧ (s.record r).state = .filling
                  ∧ (s.record r).channel = some ch ∧ (s.record r).origin = some p ∧ (s.chan ch).state ≠ .unused
                  ∧ (s.port p).toTable = []
                  ∧ ((s.chan ch).quota < (s.chan ch).blocksInUse + 1 ∨ s.store.free = [])
                  ∧ result = .rejected ∧ why = some .nospace))) →
      ∃ t, exec (.dataOut p rest) s = .next t ∧
        frameEnded p (0x03 :: rest) (some result) (s.port p).link.commands s t
        ∧ onlyPort p s t
        ∧ t.port p = ((({ s.port p with csLow := false, stream := { x with rejection := why } }
            : PortState).withXreqOf (t.port p)).withLinkOf (t.port p)))

/-- A DATA_IN frame served: the number expected in READING is served as new, with the next bytes of the record, up to 64,
from the byte count, the counts moving as R123 gives, paced set and XREQ released at this third byte where R127 says
at the frame's end (DEDUCED, log 36), and at the last byte the context is READ_DONE, XREQ released and STREAM_DONE
raised; the number before it is served again with the bytes of the last chunk, the counts standing (R123, R165, R18).

A DATA_IN frame that serves nothing: a complement that does not match is CHECK and reaches no context; otherwise the
frame is REJECTED with the reason of the first failing check, which the context keeps; the reply has length 0 (R165,
R124).

A DATA_IN frame before READY, or in a transaction begun before it (DEDUCED, log 21), is REFUSED: FFh is driven in both
bytes of the request, and nothing else changes (R169, R158; when the result is written, log 21). -/
def Obligations.DataInServesChunk : Prop :=
  (∀ (s : State) (p : PortId) (chunk complement : Byte) (r : RecId) (ch : ChanId) (left : Nat),
      let x := (s.port p).stream
      let m := s.record r
      let again := x.isResend chunk
      let k := if again then x.byteCount - x.lastLength else x.byteCount
      let n := if again then x.lastLength else min 64 left
      let damaged := m.damaged || !(touchedBlocks m.chain k n).all s.store.blockAgrees
      let last := again = false ∧ left - n = 0
      takesFrame s p → complement = ~~~chunk → (s.port p).record.state ≠ .paused →
      (x.state = .reading ∧ again = false ∧ chunk = x.expected)
        ∨ ((x.state = .reading ∨ x.state = .readDone) ∧ again = true ∧ x.lastLength ≤ x.byteCount) →
      x.record = some r → x.channel = some ch → x.remaining = some left → x.byteCount + left = m.length →
      m.state = .sealed ∨ m.state = .withdrawn →
      ∃ t, exec (.dataIn p chunk complement) s = .next t ∧
        (t.port p).link = { (s.port p).link with
          result := .accepted
          transaction := .decided none
          rx := (s.port p).link.rx ++ [0x04, chunk, complement]
          tx := (s.port p).link.tx ++ ([0xFF, 0xFF] ++ dataInReply chunk (payloadBytes s.store.pool m.chain k n)) }
        ∧ t.record r = { m with damaged := damaged } ∧ otherRecordsKept r s t
        ∧ t.store.pool = s.store.pool ∧ t.store.codes = s.store.codes ∧ t.store.free = s.store.free
        ∧ t.table = s.table ∧ deviceKept s t
        ∧ (∀ q, q ≠ p → t.port q = s.port q)
        ∧ t.port p = (((({ s.port p with
            stream := if again then { x with damageSeen := x.damageSeen || damaged }
              else { x with
                state := if left - n = 0 then .readDone else x.state
                byteCount := x.byteCount + n
                remaining := some (left - n)
                lastLength := n
                expected := x.expected + 1
                paced := x.paced || (x.burst != 0 && (decide (x.burst ≤ x.progress + n) || decide (left - n = 0)))
                damageSeen := x.damageSeen || damaged } }
            : PortState).withXreqOf (t.port p)).withEventsOf (t.port p)).withLinkOf (t.port p))
        ∧ (x.xreq = true ∧ again = false → (t.port p).stream.progress = x.progress + n)
        ∧ (last → (t.port p).stream.xreq = false
            ∧ ((s.port p).accepts (chanEvent .streamDone ch) = true → told (t.port p) (chanEvent .streamDone ch)))
        ∧ (¬ last → (t.port p).events = (s.port p).events ∧ (t.port p).lost = (s.port p).lost))
  ∧ (∀ (s : State) (p : PortId) (chunk complement : Byte) (result : FrameResult) (why : Option Rejection),
      let x := (s.port p).stream
      let now := (s.port p).record.state
      takesFrame s p →
      (complement ≠ ~~~chunk ∧ result = .check ∧ why = x.rejection)
        ∨ (complement = ~~~chunk ∧ result = .rejected
          ∧ ((now = .paused ∧ why = some .paused)
            ∨ (now ≠ .paused ∧ (x.state = .idle ∨ x.state = .writing) ∧ why = some .state)
            ∨ (now ≠ .paused ∧ (x.state = .reading ∨ x.state = .readDone) ∧ x.record.isSome = true
                ∧ (chunk ≠ x.expected ∨ x.state = .readDone) ∧ (chunk ≠ x.expected - 1 ∨ x.lastLength = 0)
                ∧ why = some .order))) →
      ∃ t, exec (.dataIn p chunk complement) s = .next t ∧
        onlyPort p s t
        ∧ t.port p = ({ s.port p with
            stream := { x with rejection := why }
            link := { (s.port p).link with
              result := result
              transaction := .decided none
              rx := (s.port p).link.rx ++ [0x04, chunk, complement]
              tx := (s.port p).link.tx ++ ([0xFF, 0xFF] ++ dataInReply chunk []) } } : PortState).withXreqOf (t.port p))
  ∧ (∀ (s : State) (p : PortId) (chunk complement : Byte),
      refusesFrame s p →
      ∃ t, exec (.dataIn p chunk complement) s = .next t ∧
        onlyPort p s t
        ∧ t.port p = { s.port p with link := { (s.port p).link with
            result := .refused
            transaction := .decided none
            rx := (s.port p).link.rx ++ [0x04, chunk, complement]
            tx := (s.port p).link.tx ++ [0xFF, 0xFF] } })

/-! ## The port link (chapter 10) -/

/-- CHIP_SELECT_FALL while the link takes it: paced is cleared, in a PAUSED port too (DEDUCED, log 18), and a resumed
port's wait ends, XREQ follows the ready condition, and the status byte formed from the state at the end of the event
is loaded, SDO being driven (R127, R134, R158).

CHIP_SELECT_RISE: the transaction ends, SDO goes to high impedance, and the last-frame result becomes what the frame
left to write: ACCEPTED for a NONE frame, CHECK for a RESPONSE frame without its release byte, CHECK for a DATA_IN
frame cut before its third byte (REFUSED before READY or in a transaction begun before it, DEDUCED, log 21), and as it
was for a transaction without a frame. The complete bytes of a cut DATA_IN frame have been received, and FFh was
driven in its byte 1 (R158, R159, R164, R165; the rise as a row of its own, log 20). -/
def Obligations.ChipSelectFrames : Prop :=
  (∀ (s : State) (p : PortId),
      let l := (s.port p).link
      s.phase ≠ .held → (s.port p).prstLow = false → (s.port p).csLow = false →
      ∃ t, exec (.chipSelectFall p) s = .next t ∧
        onlyPort p s t ∧ sdoHighImpedance t p = false
        ∧ t.port p = ({ s.port p with
            csLow := true
            stream := { (s.port p).stream with paced := false, awaitFall := false }
            link := { l with transaction := .begun, rx := [], tx := [BitVec.ofNat 8
              ((if s.phase = .ready then 128 else 0)
                + (if (s.port p).events ≠ [] ∨ 0 < (s.port p).lost then 64 else 0) + 16 * l.result.code
                + 2 * min 7 l.responses.length + (if (t.port p).stream.xreq then 1 else 0))] } }
            : PortState).withXreqOf (t.port p)
        ∧ ((t.port p).stream.xreq = true ↔
            readyCondition s.store s.table (s.port p).stream = true ∧ (s.port p).record.state ≠ .paused))
  ∧ (∀ (s : State) (p : PortId) (cut : DataInCut) (result : Option FrameResult) (bytes : List Byte),
      let l := (s.port p).link
      let carried := match cut with
        | .uncut => []
        | .afterType => [0x04]
        | .afterNumber chunk => [0x04, chunk]
      (s.port p).csLow = true →
      (l.transaction = .idle ∧ result = none ∧ bytes = [])
        ∨ ((l.transaction = .begun ∨ l.transaction = .early) ∧ cut = .uncut ∧ result = none ∧ bytes = [])
        ∨ (takesFrame s p ∧ cut ≠ .uncut ∧ result = some .check ∧ bytes = carried)
        ∨ (refusesFrame s p ∧ cut ≠ .uncut ∧ result = some .refused ∧ bytes = carried)
        ∨ (l.transaction = .noneFrame ∧ result = some .accepted ∧ bytes = [])
        ∨ ((∃ r standing, l.transaction = .response r standing) ∧ result = some .check ∧ bytes = [])
        ∨ (l.transaction = .decided result ∧ bytes = []) →
      ∃ t, exec (.chipSelectRise p cut) s = .next t ∧
        onlyPort p s t ∧ sdoHighImpedance t p = true
        ∧ t.port p = { s.port p with
            csLow := false
            link := { l with
              transaction := .idle
              result := result.getD l.result
              rx := l.rx ++ bytes
              tx := l.tx ++ List.replicate (bytes.length - 1) 0xFF } })

/-- POLL of one byte leaves the last-frame result and everything else as it was; a longer POLL, and a frame whose type is
none of the five, is CHECK, or REFUSED before READY and in a transaction begun before it (DEDUCED, log 21), and
changes nothing else (R159, R161, R169; the rows include the rise that ends the frame, the model's choice, log 20).

COMMAND_FRAME: before READY, and in a transaction begun before it (DEDUCED, log 21), it is REFUSED; a bad form or CRC
is CHECK; with all 8 slots in use it is REFUSED; else the command joins the tail of the command queue, and the result
is ACCEPTED; nothing else changes (R161, R162, R169).

A COMMAND frame passes its check exactly when it carries tag, code, a length n of at most 60, n parameters and the CRC
of them all; the command is marked malformed exactly when its code and n stand nowhere in the command code table
(R161, R162, R167). -/
def Obligations.PollInvalidAndCommandFrames : Prop :=
  (∀ (s : State) (p : PortId) (type : Byte) (rest : List Byte) (i : Instr) (result : Option FrameResult),
      (i = .poll p rest ∧ type = 0 ∧ rest = [] ∧ result = none ∧ (takesFrame s p ∨ refusesFrame s p))
        ∨ (((i = .poll p rest ∧ type = 0 ∧ rest ≠ []) ∨ (i = .invalidFrameType p type rest ∧ 4 < type.toNat))
            ∧ ((takesFrame s p ∧ result = some .check) ∨ (refusesFrame s p ∧ result = some .refused))) →
      ∃ t, exec i s = .next t ∧
        onlyPort p s t
        ∧ frameEnded p (type :: rest) result (s.port p).link.commands s t
        ∧ t.port p = ({ s.port p with csLow := false } : PortState).withLinkOf (t.port p))
  ∧ (∀ (s : State) (p : PortId) (rest : List Byte) (result : FrameResult) (taken : List Command),
      (refusesFrame s p ∧ result = .refused ∧ taken = [])
        ∨ (takesFrame s p ∧ parseCommandFrame rest = none ∧ result = .check ∧ taken = [])
        ∨ (∃ c, takesFrame s p ∧ parseCommandFrame rest = some c
            ∧ ((8 ≤ (s.port p).slotsInUse ∧ result = .refused ∧ taken = [])
              ∨ ((s.port p).slotsInUse < 8 ∧ result = .accepted ∧ taken = [c]))) →
      ∃ t, exec (.commandFrame p rest) s = .next t ∧
        onlyPort p s t
        ∧ frameEnded p (0x01 :: rest) (some result) ((s.port p).link.commands ++ taken) s t
        ∧ t.port p = ({ s.port p with csLow := false } : PortState).withLinkOf (t.port p))
  ∧ (∀ (rest : List Byte) (c : Command),
      (parseCommandFrame rest = some c ↔
        c.params.length ≤ 60
        ∧ rest = [c.tag, c.code, BitVec.ofNat 8 c.params.length] ++ c.params
            ++ crcBytes ([c.tag, c.code, BitVec.ofNat 8 c.params.length] ++ c.params)
        ∧ (c.malformed = false ↔ ∃ e ∈ [(0x10, 5, 5), (0x11, 0, 0), (0x12, 0, 0), (0x13, 2, 2), (0x14, 0, 0),
              (0x15, 0, 0), (0x16, 3, 3), (0x17, 0, 0), (0x20, 14, 14), (0x21, 8, 8), (0x22, 2, 2), (0x23, 1, 1),
              (0x24, 7, 7), (0x25, 1, 1), (0x30, 4, 4), (0x31, 1, 1), (0x32, 5, 5), (0x33, 2, 2), (0x40, 7, 54),
              (0x41, 7, 54), (0x42, 0, 0), (0x43, 0, 0), (0x50, 5, 5), (0x51, 2, 2), (0x60, 9, 9), (0x61, 3, 3),
              (0x62, 0, 0), (0x63, 0, 0), (0x64, 0, 0)],
            c.code.toNat = e.1 ∧ e.2.1 ≤ c.params.length ∧ c.params.length ≤ e.2.2)))

/-- RESPONSE_FRAME: with a response queued its bytes are fixed and sent, the response staying at the head of the queue;
with none queued the frame is a NONE frame of one byte 00h (R164).

RELEASE_BYTE: A5h while the fixed response still stands delivers it, freeing its slot, with ACCEPTED at the frame's
end; any other value, or a response discarded meanwhile, delivers nothing, with CHECK (R164).

RESPONSE_FRAME before READY, or in a transaction begun before it (DEDUCED, log 21), is REFUSED and sends nothing of
the queue (R169; when the result is written, log 21).

A byte clocked after a NONE frame's length, after a release byte or in a frame already decided carries FFh and changes
nothing else (R158, R164; the RELEASE_BYTE row stands for it, log 20). -/
def Obligations.ResponseAndReleaseByte : Prop :=
  (∀ (s : State) (p : PortId),
      let l := (s.port p).link
      takesFrame s p →
      ∃ t, exec (.responseFrame p) s = .next t ∧
        onlyPort p s t
        ∧ (∀ r later, l.responses = r :: later →
            t.port p = { s.port p with link := { l with
              rx := l.rx ++ [0x02]
              transaction := .response r true
              tx := l.tx ++ (let covered := [BitVec.ofNat 8 (r.results.length + 6), r.tag, r.code, r.status.code,
                  BitVec.ofNat 8 r.results.length] ++ r.results
                covered ++ crcBytes covered) } })
        ∧ (l.responses = [] →
            t.port p = { s.port p with link := { l with
              rx := l.rx ++ [0x02], transaction := .noneFrame, tx := l.tx ++ [0x00] } }))
  ∧ (∀ (s : State) (p : PortId) (value : Byte) (r : Response) (standing : Bool),
      let l := (s.port p).link
      l.transaction = .response r standing →
      ∃ t, exec (.releaseByte p value) s = .next t ∧
        onlyPort p s t
        ∧ t.port p = { s.port p with link := { l with
            rx := l.rx ++ [value]
            tx := l.tx ++ [0xFF]
            responses := if value = 0xA5 ∧ standing = true then l.responses.tail else l.responses
            transaction := .decided (some (if value = 0xA5 ∧ standing = true then .accepted else .check)) } })
  ∧ (∀ (s : State) (p : PortId),
      refusesFrame s p →
      ∃ t, exec (.responseFrame p) s = .next t ∧
        onlyPort p s t
        ∧ t.port p = { s.port p with link := { (s.port p).link with
            result := .refused, transaction := .decided none, rx := (s.port p).link.rx ++ [0x02] } })
  ∧ (∀ (s : State) (p : PortId) (value : Byte),
      let l := (s.port p).link
      l.transaction = .noneFrame ∨ (∃ result, l.transaction = .decided result) →
      ∃ t, exec (.releaseByte p value) s = .next t ∧
        onlyPort p s t
        ∧ t.port p = { s.port p with link := { l with rx := l.rx ++ [value], tx := l.tx ++ [0xFF] } })
end

