-- ==== Sys2Proof/Laws/State.lean ====
section
/-! SUPPORT. What each update of the state leaves: one lemma per field per update. -/

namespace Sys2Proof.Machine

/-! ## setStore -/

@[simp] theorem State.setStore_store (s : State) (st : Store) : (s.setStore st).store = st := rfl
@[simp] theorem State.setStore_table (s : State) (st : Store) : (s.setStore st).table = s.table := rfl
@[simp] theorem State.setStore_ports (s : State) (st : Store) : (s.setStore st).ports = s.ports := rfl
@[simp] theorem State.setStore_tick (s : State) (st : Store) : (s.setStore st).tick = s.tick := rfl
@[simp] theorem State.setStore_phase (s : State) (st : Store) : (s.setStore st).phase = s.phase := rfl
@[simp] theorem State.setStore_resetLow (s : State) (st : Store) : (s.setStore st).resetLow = s.resetLow := rfl
@[simp] theorem State.setStore_powerHold (s : State) (st : Store) : (s.setStore st).powerHold = s.powerHold := rfl
@[simp] theorem State.setStore_pending (s : State) (st : Store) : (s.setStore st).pending = s.pending := rfl
@[simp] theorem State.setStore_chan (s : State) (st : Store) (x : ChanId) : (s.setStore st).chan x = s.chan x := rfl
@[simp] theorem State.setStore_mark (s : State) (st : Store) (x : PortId) : (s.setStore st).mark x = s.mark x := rfl
@[simp] theorem State.setStore_port (s : State) (st : Store) (x : PortId) : (s.setStore st).port x = s.port x := rfl
@[simp] theorem State.setStore_running (s : State) (st : Store) : (s.setStore st).running = s.running := rfl

@[simp] theorem State.setStore_record (s : State) (st : Store) (r : RecId) : (s.setStore st).record r = st.record r := rfl

/-! ## setChan -/

@[simp] theorem State.setChan_store (s : State) (ch : ChanId) (c : Channel) : (s.setChan ch c).store = s.store := rfl
@[simp] theorem State.setChan_ports (s : State) (ch : ChanId) (c : Channel) : (s.setChan ch c).ports = s.ports := rfl
@[simp] theorem State.setChan_tick (s : State) (ch : ChanId) (c : Channel) : (s.setChan ch c).tick = s.tick := rfl
@[simp] theorem State.setChan_phase (s : State) (ch : ChanId) (c : Channel) : (s.setChan ch c).phase = s.phase := rfl
@[simp] theorem State.setChan_resetLow (s : State) (ch : ChanId) (c : Channel) : (s.setChan ch c).resetLow = s.resetLow := rfl
@[simp] theorem State.setChan_powerHold (s : State) (ch : ChanId) (c : Channel) : (s.setChan ch c).powerHold = s.powerHold := rfl
@[simp] theorem State.setChan_pending (s : State) (ch : ChanId) (c : Channel) : (s.setChan ch c).pending = s.pending := rfl
@[simp] theorem State.setChan_record (s : State) (ch : ChanId) (c : Channel) (x : RecId) : (s.setChan ch c).record x = s.record x := rfl
@[simp] theorem State.setChan_port (s : State) (ch : ChanId) (c : Channel) (x : PortId) : (s.setChan ch c).port x = s.port x := rfl
@[simp] theorem State.setChan_running (s : State) (ch : ChanId) (c : Channel) : (s.setChan ch c).running = s.running := rfl

@[simp] theorem State.setChan_mark (s : State) (ch : ChanId) (c : Channel) (p : PortId) : (s.setChan ch c).mark p = s.mark p := rfl
@[simp] theorem State.setChan_chan_self (s : State) (ch : ChanId) (c : Channel) : (s.setChan ch c).chan ch = c := by
  simp [State.setChan, State.chan, Table.chan]
@[simp] theorem State.setChan_chan_ne (s : State) {ch d : ChanId} (c : Channel) (h : d ≠ ch) :
    (s.setChan ch c).chan d = s.chan d := by
  have h' : ch.val ≠ d.val := fun e => h (Fin.ext e.symm)
  simp [State.setChan, State.chan, Table.chan, h']
/-- A channel read after a channel was written. -/
theorem State.setChan_chan (s : State) (ch d : ChanId) (c : Channel) :
    (s.setChan ch c).chan d = if d = ch then c else s.chan d := by
  split
  · next h => subst h; simp
  · next h => simp [h]

/-! ## modChan -/

@[simp] theorem State.modChan_store (s : State) (ch : ChanId) (f : Channel → Channel) : (s.modChan ch f).store = s.store := rfl
@[simp] theorem State.modChan_ports (s : State) (ch : ChanId) (f : Channel → Channel) : (s.modChan ch f).ports = s.ports := rfl
@[simp] theorem State.modChan_tick (s : State) (ch : ChanId) (f : Channel → Channel) : (s.modChan ch f).tick = s.tick := rfl
@[simp] theorem State.modChan_phase (s : State) (ch : ChanId) (f : Channel → Channel) : (s.modChan ch f).phase = s.phase := rfl
@[simp] theorem State.modChan_resetLow (s : State) (ch : ChanId) (f : Channel → Channel) : (s.modChan ch f).resetLow = s.resetLow := rfl
@[simp] theorem State.modChan_powerHold (s : State) (ch : ChanId) (f : Channel → Channel) : (s.modChan ch f).powerHold = s.powerHold := rfl
@[simp] theorem State.modChan_pending (s : State) (ch : ChanId) (f : Channel → Channel) : (s.modChan ch f).pending = s.pending := rfl
@[simp] theorem State.modChan_record (s : State) (ch : ChanId) (f : Channel → Channel) (x : RecId) : (s.modChan ch f).record x = s.record x := rfl
@[simp] theorem State.modChan_port (s : State) (ch : ChanId) (f : Channel → Channel) (x : PortId) : (s.modChan ch f).port x = s.port x := rfl
@[simp] theorem State.modChan_running (s : State) (ch : ChanId) (f : Channel → Channel) : (s.modChan ch f).running = s.running := rfl

@[simp] theorem State.modChan_mark (s : State) (ch : ChanId) (f : Channel → Channel) (p : PortId) :
    (s.modChan ch f).mark p = s.mark p := rfl
@[simp] theorem State.modChan_chan_self (s : State) (ch : ChanId) (f : Channel → Channel) :
    (s.modChan ch f).chan ch = f (s.chan ch) := by
  simp [State.modChan]
@[simp] theorem State.modChan_chan_ne (s : State) {ch d : ChanId} (f : Channel → Channel) (h : d ≠ ch) :
    (s.modChan ch f).chan d = s.chan d := by
  simp [State.modChan, h]
/-- A channel read after a channel was changed. -/
theorem State.modChan_chan (s : State) (ch d : ChanId) (f : Channel → Channel) :
    (s.modChan ch f).chan d = if d = ch then f (s.chan ch) else s.chan d :=
  State.setChan_chan s ch d (f (s.chan ch))

/-! ## setMark -/

@[simp] theorem State.setMark_store (s : State) (p : PortId) (m : Mark) : (s.setMark p m).store = s.store := rfl
@[simp] theorem State.setMark_ports (s : State) (p : PortId) (m : Mark) : (s.setMark p m).ports = s.ports := rfl
@[simp] theorem State.setMark_tick (s : State) (p : PortId) (m : Mark) : (s.setMark p m).tick = s.tick := rfl
@[simp] theorem State.setMark_phase (s : State) (p : PortId) (m : Mark) : (s.setMark p m).phase = s.phase := rfl
@[simp] theorem State.setMark_resetLow (s : State) (p : PortId) (m : Mark) : (s.setMark p m).resetLow = s.resetLow := rfl
@[simp] theorem State.setMark_powerHold (s : State) (p : PortId) (m : Mark) : (s.setMark p m).powerHold = s.powerHold := rfl
@[simp] theorem State.setMark_pending (s : State) (p : PortId) (m : Mark) : (s.setMark p m).pending = s.pending := rfl
@[simp] theorem State.setMark_record (s : State) (p : PortId) (m : Mark) (x : RecId) : (s.setMark p m).record x = s.record x := rfl
@[simp] theorem State.setMark_port (s : State) (p : PortId) (m : Mark) (x : PortId) : (s.setMark p m).port x = s.port x := rfl
@[simp] theorem State.setMark_running (s : State) (p : PortId) (m : Mark) : (s.setMark p m).running = s.running := rfl

@[simp] theorem State.setMark_chan (s : State) (p : PortId) (m : Mark) (ch : ChanId) : (s.setMark p m).chan ch = s.chan ch := rfl
@[simp] theorem State.setMark_mark_self (s : State) (p : PortId) (m : Mark) : (s.setMark p m).mark p = m := by
  simp [State.setMark, State.mark]
@[simp] theorem State.setMark_mark_ne (s : State) {p q : PortId} (m : Mark) (h : q ≠ p) :
    (s.setMark p m).mark q = s.mark q := by
  have h' : p.val ≠ q.val := fun e => h (Fin.ext e.symm)
  simp [State.setMark, State.mark, h']

/-! ## setPort -/

@[simp] theorem State.setPort_store (s : State) (p : PortId) (q : PortState) : (s.setPort p q).store = s.store := rfl
@[simp] theorem State.setPort_table (s : State) (p : PortId) (q : PortState) : (s.setPort p q).table = s.table := rfl
@[simp] theorem State.setPort_tick (s : State) (p : PortId) (q : PortState) : (s.setPort p q).tick = s.tick := rfl
@[simp] theorem State.setPort_phase (s : State) (p : PortId) (q : PortState) : (s.setPort p q).phase = s.phase := rfl
@[simp] theorem State.setPort_resetLow (s : State) (p : PortId) (q : PortState) : (s.setPort p q).resetLow = s.resetLow := rfl
@[simp] theorem State.setPort_powerHold (s : State) (p : PortId) (q : PortState) : (s.setPort p q).powerHold = s.powerHold := rfl
@[simp] theorem State.setPort_pending (s : State) (p : PortId) (q : PortState) : (s.setPort p q).pending = s.pending := rfl
@[simp] theorem State.setPort_record (s : State) (p : PortId) (q : PortState) (x : RecId) : (s.setPort p q).record x = s.record x := rfl
@[simp] theorem State.setPort_chan (s : State) (p : PortId) (q : PortState) (x : ChanId) : (s.setPort p q).chan x = s.chan x := rfl
@[simp] theorem State.setPort_mark (s : State) (p : PortId) (q : PortState) (x : PortId) : (s.setPort p q).mark x = s.mark x := rfl
@[simp] theorem State.setPort_running (s : State) (p : PortId) (q : PortState) : (s.setPort p q).running = s.running := rfl

@[simp] theorem State.setPort_port_self (s : State) (p : PortId) (q : PortState) : (s.setPort p q).port p = q := by
  simp [State.setPort, State.port]
@[simp] theorem State.setPort_port_ne (s : State) {p o : PortId} (q : PortState) (h : o ≠ p) :
    (s.setPort p q).port o = s.port o := by
  have h' : p.val ≠ o.val := fun e => h (Fin.ext e.symm)
  simp [State.setPort, State.port, h']
/-- A port read after a port was written. -/
theorem State.setPort_port (s : State) (p o : PortId) (q : PortState) :
    (s.setPort p q).port o = if o = p then q else s.port o := by
  split
  · next h => subst h; simp
  · next h => simp [h]

/-! ## modPort -/

@[simp] theorem State.modPort_store (s : State) (p : PortId) (f : PortState → PortState) : (s.modPort p f).store = s.store := rfl
@[simp] theorem State.modPort_table (s : State) (p : PortId) (f : PortState → PortState) : (s.modPort p f).table = s.table := rfl
@[simp] theorem State.modPort_tick (s : State) (p : PortId) (f : PortState → PortState) : (s.modPort p f).tick = s.tick := rfl
@[simp] theorem State.modPort_phase (s : State) (p : PortId) (f : PortState → PortState) : (s.modPort p f).phase = s.phase := rfl
@[simp] theorem State.modPort_resetLow (s : State) (p : PortId) (f : PortState → PortState) : (s.modPort p f).resetLow = s.resetLow := rfl
@[simp] theorem State.modPort_powerHold (s : State) (p : PortId) (f : PortState → PortState) : (s.modPort p f).powerHold = s.powerHold := rfl
@[simp] theorem State.modPort_pending (s : State) (p : PortId) (f : PortState → PortState) : (s.modPort p f).pending = s.pending := rfl
@[simp] theorem State.modPort_record (s : State) (p : PortId) (f : PortState → PortState) (x : RecId) : (s.modPort p f).record x = s.record x := rfl
@[simp] theorem State.modPort_chan (s : State) (p : PortId) (f : PortState → PortState) (x : ChanId) : (s.modPort p f).chan x = s.chan x := rfl
@[simp] theorem State.modPort_mark (s : State) (p : PortId) (f : PortState → PortState) (x : PortId) : (s.modPort p f).mark x = s.mark x := rfl
@[simp] theorem State.modPort_running (s : State) (p : PortId) (f : PortState → PortState) : (s.modPort p f).running = s.running := rfl

@[simp] theorem State.modPort_port_self (s : State) (p : PortId) (f : PortState → PortState) :
    (s.modPort p f).port p = f (s.port p) := by
  simp [State.modPort]
@[simp] theorem State.modPort_port_ne (s : State) {p o : PortId} (f : PortState → PortState) (h : o ≠ p) :
    (s.modPort p f).port o = s.port o := by
  simp [State.modPort, h]
/-- A port read after a port was changed. -/
theorem State.modPort_port (s : State) (p o : PortId) (f : PortState → PortState) :
    (s.modPort p f).port o = if o = p then f (s.port p) else s.port o :=
  State.setPort_port s p o (f (s.port p))

/-! ## modRecord -/

@[simp] theorem PortState.modRecord_record (q : PortState) (f : PortRecord → PortRecord) : (q.modRecord f).record = f q.record := rfl
@[simp] theorem PortState.modRecord_stream (q : PortState) (f : PortRecord → PortRecord) : (q.modRecord f).stream = q.stream := rfl
@[simp] theorem PortState.modRecord_staging (q : PortState) (f : PortRecord → PortRecord) : (q.modRecord f).staging = q.staging := rfl
@[simp] theorem PortState.modRecord_events (q : PortState) (f : PortRecord → PortRecord) : (q.modRecord f).events = q.events := rfl
@[simp] theorem PortState.modRecord_lost (q : PortState) (f : PortRecord → PortRecord) : (q.modRecord f).lost = q.lost := rfl
@[simp] theorem PortState.modRecord_busy (q : PortState) (f : PortRecord → PortRecord) : (q.modRecord f).busy = q.busy := rfl
@[simp] theorem PortState.modRecord_link (q : PortState) (f : PortRecord → PortRecord) : (q.modRecord f).link = q.link := rfl
@[simp] theorem PortState.modRecord_toTable (q : PortState) (f : PortRecord → PortRecord) : (q.modRecord f).toTable = q.toTable := rfl
@[simp] theorem PortState.modRecord_releases (q : PortState) (f : PortRecord → PortRecord) : (q.modRecord f).releases = q.releases := rfl
@[simp] theorem PortState.modRecord_returns (q : PortState) (f : PortRecord → PortRecord) : (q.modRecord f).returns = q.returns := rfl
@[simp] theorem PortState.modRecord_prstLow (q : PortState) (f : PortRecord → PortRecord) : (q.modRecord f).prstLow = q.prstLow := rfl
@[simp] theorem PortState.modRecord_csLow (q : PortState) (f : PortRecord → PortRecord) : (q.modRecord f).csLow = q.csLow := rfl

/-! ## modStream -/

@[simp] theorem PortState.modStream_record (q : PortState) (f : Stream → Stream) : (q.modStream f).record = q.record := rfl
@[simp] theorem PortState.modStream_stream (q : PortState) (f : Stream → Stream) : (q.modStream f).stream = f q.stream := rfl
@[simp] theorem PortState.modStream_staging (q : PortState) (f : Stream → Stream) : (q.modStream f).staging = q.staging := rfl
@[simp] theorem PortState.modStream_events (q : PortState) (f : Stream → Stream) : (q.modStream f).events = q.events := rfl
@[simp] theorem PortState.modStream_lost (q : PortState) (f : Stream → Stream) : (q.modStream f).lost = q.lost := rfl
@[simp] theorem PortState.modStream_busy (q : PortState) (f : Stream → Stream) : (q.modStream f).busy = q.busy := rfl
@[simp] theorem PortState.modStream_link (q : PortState) (f : Stream → Stream) : (q.modStream f).link = q.link := rfl
@[simp] theorem PortState.modStream_toTable (q : PortState) (f : Stream → Stream) : (q.modStream f).toTable = q.toTable := rfl
@[simp] theorem PortState.modStream_releases (q : PortState) (f : Stream → Stream) : (q.modStream f).releases = q.releases := rfl
@[simp] theorem PortState.modStream_returns (q : PortState) (f : Stream → Stream) : (q.modStream f).returns = q.returns := rfl
@[simp] theorem PortState.modStream_prstLow (q : PortState) (f : Stream → Stream) : (q.modStream f).prstLow = q.prstLow := rfl
@[simp] theorem PortState.modStream_csLow (q : PortState) (f : Stream → Stream) : (q.modStream f).csLow = q.csLow := rfl

/-! ## modLink -/

@[simp] theorem PortState.modLink_record (q : PortState) (f : Link → Link) : (q.modLink f).record = q.record := rfl
@[simp] theorem PortState.modLink_stream (q : PortState) (f : Link → Link) : (q.modLink f).stream = q.stream := rfl
@[simp] theorem PortState.modLink_staging (q : PortState) (f : Link → Link) : (q.modLink f).staging = q.staging := rfl
@[simp] theorem PortState.modLink_events (q : PortState) (f : Link → Link) : (q.modLink f).events = q.events := rfl
@[simp] theorem PortState.modLink_lost (q : PortState) (f : Link → Link) : (q.modLink f).lost = q.lost := rfl
@[simp] theorem PortState.modLink_busy (q : PortState) (f : Link → Link) : (q.modLink f).busy = q.busy := rfl
@[simp] theorem PortState.modLink_link (q : PortState) (f : Link → Link) : (q.modLink f).link = f q.link := rfl
@[simp] theorem PortState.modLink_toTable (q : PortState) (f : Link → Link) : (q.modLink f).toTable = q.toTable := rfl
@[simp] theorem PortState.modLink_releases (q : PortState) (f : Link → Link) : (q.modLink f).releases = q.releases := rfl
@[simp] theorem PortState.modLink_returns (q : PortState) (f : Link → Link) : (q.modLink f).returns = q.returns := rfl
@[simp] theorem PortState.modLink_prstLow (q : PortState) (f : Link → Link) : (q.modLink f).prstLow = q.prstLow := rfl
@[simp] theorem PortState.modLink_csLow (q : PortState) (f : Link → Link) : (q.modLink f).csLow = q.csLow := rfl

/-! ## Store.setRecord -/

@[simp] theorem Store.setRecord_pool (st : Store) (r : RecId) (x : Record) : (st.setRecord r x).pool = st.pool := rfl
@[simp] theorem Store.setRecord_codes (st : Store) (r : RecId) (x : Record) : (st.setRecord r x).codes = st.codes := rfl
@[simp] theorem Store.setRecord_free (st : Store) (r : RecId) (x : Record) : (st.setRecord r x).free = st.free := rfl
@[simp] theorem Store.setRecord_notices (st : Store) (r : RecId) (x : Record) : (st.setRecord r x).notices = st.notices := rfl
@[simp] theorem Store.setRecord_record_self (st : Store) (r : RecId) (x : Record) : (st.setRecord r x).record r = x := by
  simp [Store.setRecord, Store.record]
@[simp] theorem Store.setRecord_record_ne (st : Store) {r o : RecId} (x : Record) (h : o ≠ r) :
    (st.setRecord r x).record o = st.record o := by
  have h' : r.val ≠ o.val := fun e => h (Fin.ext e.symm)
  simp [Store.setRecord, Store.record, h']
/-- A record read after a record was written. -/
theorem Store.setRecord_record (st : Store) (r o : RecId) (x : Record) :
    (st.setRecord r x).record o = if o = r then x else st.record o := by
  split
  · next h => subst h; simp
  · next h => simp [h]

/-! ## Channel.setSub and Channel.modSub -/

@[simp] theorem Channel.setSub_state (c : Channel) (p : PortId) (x : Option Sub) : (c.setSub p x).state = c.state := rfl
@[simp] theorem Channel.setSub_name (c : Channel) (p : PortId) (x : Option Sub) : (c.setSub p x).name = c.name := rfl
@[simp] theorem Channel.setSub_kind (c : Channel) (p : PortId) (x : Option Sub) : (c.setSub p x).kind = c.kind := rfl
@[simp] theorem Channel.setSub_depth (c : Channel) (p : PortId) (x : Option Sub) : (c.setSub p x).depth = c.depth := rfl
@[simp] theorem Channel.setSub_quota (c : Channel) (p : PortId) (x : Option Sub) : (c.setSub p x).quota = c.quota := rfl
@[simp] theorem Channel.setSub_blocksInUse (c : Channel) (p : PortId) (x : Option Sub) : (c.setSub p x).blocksInUse = c.blocksInUse := rfl
@[simp] theorem Channel.setSub_posters (c : Channel) (p : PortId) (x : Option Sub) : (c.setSub p x).posters = c.posters := rfl
@[simp] theorem Channel.setSub_admins (c : Channel) (p : PortId) (x : Option Sub) : (c.setSub p x).admins = c.admins := rfl
@[simp] theorem Channel.setSub_log (c : Channel) (p : PortId) (x : Option Sub) : (c.setSub p x).log = c.log := rfl
@[simp] theorem Channel.setSub_reserved (c : Channel) (p : PortId) (x : Option Sub) : (c.setSub p x).reserved = c.reserved := rfl
@[simp] theorem Channel.setSub_withdrawn (c : Channel) (p : PortId) (x : Option Sub) : (c.setSub p x).withdrawn = c.withdrawn := rfl
@[simp] theorem Channel.setSub_nextSeq (c : Channel) (p : PortId) (x : Option Sub) : (c.setSub p x).nextSeq = c.nextSeq := rfl
@[simp] theorem Channel.setSub_posted (c : Channel) (p : PortId) (x : Option Sub) : (c.setSub p x).posted = c.posted := rfl
@[simp] theorem Channel.setSub_dropped (c : Channel) (p : PortId) (x : Option Sub) : (c.setSub p x).dropped = c.dropped := rfl
@[simp] theorem Channel.modSub_state (c : Channel) (p : PortId) (f : Sub → Sub) : (c.modSub p f).state = c.state := rfl
@[simp] theorem Channel.modSub_name (c : Channel) (p : PortId) (f : Sub → Sub) : (c.modSub p f).name = c.name := rfl
@[simp] theorem Channel.modSub_kind (c : Channel) (p : PortId) (f : Sub → Sub) : (c.modSub p f).kind = c.kind := rfl
@[simp] theorem Channel.modSub_depth (c : Channel) (p : PortId) (f : Sub → Sub) : (c.modSub p f).depth = c.depth := rfl
@[simp] theorem Channel.modSub_quota (c : Channel) (p : PortId) (f : Sub → Sub) : (c.modSub p f).quota = c.quota := rfl
@[simp] theorem Channel.modSub_blocksInUse (c : Channel) (p : PortId) (f : Sub → Sub) : (c.modSub p f).blocksInUse = c.blocksInUse := rfl
@[simp] theorem Channel.modSub_posters (c : Channel) (p : PortId) (f : Sub → Sub) : (c.modSub p f).posters = c.posters := rfl
@[simp] theorem Channel.modSub_admins (c : Channel) (p : PortId) (f : Sub → Sub) : (c.modSub p f).admins = c.admins := rfl
@[simp] theorem Channel.modSub_log (c : Channel) (p : PortId) (f : Sub → Sub) : (c.modSub p f).log = c.log := rfl
@[simp] theorem Channel.modSub_reserved (c : Channel) (p : PortId) (f : Sub → Sub) : (c.modSub p f).reserved = c.reserved := rfl
@[simp] theorem Channel.modSub_withdrawn (c : Channel) (p : PortId) (f : Sub → Sub) : (c.modSub p f).withdrawn = c.withdrawn := rfl
@[simp] theorem Channel.modSub_nextSeq (c : Channel) (p : PortId) (f : Sub → Sub) : (c.modSub p f).nextSeq = c.nextSeq := rfl
@[simp] theorem Channel.modSub_posted (c : Channel) (p : PortId) (f : Sub → Sub) : (c.modSub p f).posted = c.posted := rfl
@[simp] theorem Channel.modSub_dropped (c : Channel) (p : PortId) (f : Sub → Sub) : (c.modSub p f).dropped = c.dropped := rfl
@[simp] theorem Channel.setSub_sub_self (c : Channel) (p : PortId) (x : Option Sub) : (c.setSub p x).sub p = x := by
  simp [Channel.setSub, Channel.sub]
@[simp] theorem Channel.setSub_sub_ne (c : Channel) {p q : PortId} (x : Option Sub) (h : q ≠ p) :
    (c.setSub p x).sub q = c.sub q := by
  have h' : p.val ≠ q.val := fun e => h (Fin.ext e.symm)
  simp [Channel.setSub, Channel.sub, h']
@[simp] theorem Channel.modSub_sub_self (c : Channel) (p : PortId) (f : Sub → Sub) : (c.modSub p f).sub p = (c.sub p).map f := by
  simp [Channel.modSub]
@[simp] theorem Channel.modSub_sub_ne (c : Channel) {p q : PortId} (f : Sub → Sub) (h : q ≠ p) :
    (c.modSub p f).sub q = c.sub q := by
  simp [Channel.modSub, h]

/-! ## Equality of states by their parts -/

/-- Two states are equal when their parts are. -/
theorem State.ext_parts {s t : State} (h1 : s.store = t.store) (h2 : s.table = t.table) (h3 : ∀ p, s.port p = t.port p)
    (h4 : s.tick = t.tick) (h5 : s.phase = t.phase) (h6 : s.resetLow = t.resetLow) (h7 : s.powerHold = t.powerHold)
    (h8 : s.pending = t.pending) : s = t := by
  have hp : s.ports = t.ports := by
    apply Vector.ext
    intro i hi
    exact h3 ⟨i, hi⟩
  cases s; cases t; simp_all

/-- A port written with what it holds. -/
@[simp] theorem State.setPort_eq_self (s : State) (p : PortId) : s.setPort p (s.port p) = s := by
  apply State.ext_parts <;> simp [State.setPort_port]

end Sys2Proof.Machine
end

