-- ==== Sys2Proof/Laws/Frame.lean ====
section
/-! SUPPORT. What the shared operations leave: operations of one port change that port only (`onlyPort`), and operations
of the table at one channel change that channel, records, the free block list and the ports' event queues
(`TableFrame`). -/

namespace Sys2Proof.Machine

/-! ## Folds -/

/-- A fold whose every step relates its ends relates its own. -/
theorem foldl_rel {α σ : Type} {R : σ → σ → Prop} (hr : ∀ s, R s s) (ht : ∀ a b c, R a b → R b c → R a c) (f : σ → α → σ)
    (hf : ∀ s x, R s (f s x)) (xs : List α) (s : σ) : R s (xs.foldl f s) := by
  induction xs generalizing s with
  | nil => exact hr s
  | cons x xs ih => exact ht _ _ _ (hf s x) (ih (f s x))

/-! ## The device -/

theorem deviceKept_refl (s : State) : deviceKept s s := ⟨rfl, rfl, rfl, rfl, rfl⟩

theorem deviceKept_trans {a b c : State} (h : deviceKept a b) (k : deviceKept b c) : deviceKept a c :=
  ⟨k.1.trans h.1, k.2.1.trans h.2.1, k.2.2.1.trans h.2.2.1, k.2.2.2.1.trans h.2.2.2.1, k.2.2.2.2.trans h.2.2.2.2⟩

/-! ## Operations of one port -/

theorem onlyPort_refl (p : PortId) (s : State) : onlyPort p s s := ⟨rfl, rfl, deviceKept_refl s, fun _ _ => rfl⟩

theorem onlyPort_trans {p : PortId} {a b c : State} (h : onlyPort p a b) (k : onlyPort p b c) : onlyPort p a c :=
  ⟨k.1.trans h.1, k.2.1.trans h.2.1, deviceKept_trans h.2.2.1 k.2.2.1,
    fun q hq => (k.2.2.2 q hq).trans (h.2.2.2 q hq)⟩

/-- A change of a port changes that port only. -/
theorem onlyPort_modPort (p : PortId) (f : PortState → PortState) (s : State) : onlyPort p s (s.modPort p f) :=
  ⟨rfl, rfl, deviceKept_refl s, fun _ hq => State.modPort_port_ne s f hq⟩

theorem onlyPort_foldl {α : Type} {p : PortId} (f : State → α → State) (hf : ∀ s x, onlyPort p s (f s x)) (xs : List α)
    (s : State) : onlyPort p s (xs.foldl f s) :=
  foldl_rel (onlyPort_refl p) (fun _ _ _ => onlyPort_trans) f hf xs s

theorem raise_onlyPort (p : PortId) (e : Event) (s : State) : onlyPort p s (raise p e s) := onlyPort_modPort p _ s

theorem answer_onlyPort (p : PortId) (c : Command) (st : Status) (rs : List Byte) (s : State) :
    onlyPort p s (answer p c st rs s) := onlyPort_modPort p _ s

theorem answerWaiting_onlyPort (p : PortId) (st : Status) (s : State) : onlyPort p s (answerWaiting p st s) :=
  onlyPort_modPort p _ s

theorem popCommand_onlyPort (p : PortId) (s : State) : onlyPort p s (popCommand p s) := onlyPort_modPort p _ s

theorem popTable_onlyPort (p : PortId) (s : State) : onlyPort p s (popTable p s) := onlyPort_modPort p _ s

theorem sendTable_onlyPort (p : PortId) (m : TableMsg) (s : State) : onlyPort p s (sendTable p m s) :=
  onlyPort_modPort p _ s

theorem sendRelease_onlyPort (p : PortId) (r : RecId) (s : State) : onlyPort p s (sendRelease p r s) :=
  onlyPort_modPort p _ s

theorem evalXreq_onlyPort (p : PortId) (s : State) : onlyPort p s (evalXreq p s) := onlyPort_modPort p _ s

theorem sendCleanup_onlyPort (p : PortId) (abandon : Bool) (s : State) : onlyPort p s (sendCleanup p abandon s) := by
  unfold sendCleanup
  simp only
  split
  · split
    · exact sendTable_onlyPort p _ s
    · exact onlyPort_trans (by split <;> first | exact sendTable_onlyPort p _ s | exact onlyPort_refl p s) (sendRelease_onlyPort p _ _)
    · exact onlyPort_trans (by split <;> first | exact sendTable_onlyPort p _ s | exact onlyPort_refl p s) (sendRelease_onlyPort p _ _)
    · exact onlyPort_refl p s
  · exact onlyPort_refl p s

theorem dropStaging_onlyPort (p : PortId) (s : State) : onlyPort p s (dropStaging p s) := by
  unfold dropStaging
  refine onlyPort_trans (onlyPort_foldl _ ?_ _ s) (onlyPort_modPort p _ _)
  intro s e
  split
  · exact sendTable_onlyPort p _ s
  · exact onlyPort_refl p s

/-! ## XREQ at the end of an event -/

/-- Nothing but XREQ and burst progress of the ports changed. -/
def XreqFrame (s t : State) : Prop :=
  t.store = s.store ∧ t.table = s.table ∧ deviceKept s t ∧ ∀ q, portKept q s t

theorem withXreqOf_self (x : PortState) : x.withXreqOf x = x := rfl

theorem XreqFrame.refl (s : State) : XreqFrame s s := ⟨rfl, rfl, deviceKept_refl s, fun _ => rfl⟩

theorem XreqFrame.trans {a b c : State} (h : XreqFrame a b) (k : XreqFrame b c) : XreqFrame a c := by
  refine ⟨k.1.trans h.1, k.2.1.trans h.2.1, deviceKept_trans h.2.2.1 k.2.2.1, fun q => ?_⟩
  have h1 := h.2.2.2 q
  have h2 := k.2.2.2 q
  unfold portKept at *
  rw [h2, h1]
  rfl

/-- The controller's evaluation of XREQ leaves the rest of its port (R126). -/
theorem evalXreq_frame (p : PortId) (s : State) : XreqFrame s (evalXreq p s) := by
  refine ⟨rfl, rfl, deviceKept_refl s, fun q => ?_⟩
  unfold portKept evalXreq
  rw [State.modPort_port]
  split
  · next h => subst h; rfl
  · rfl

theorem watchRoom_frame (s0 : State) (p : PortId) (s : State) : XreqFrame s (watchRoom s0 p s) := by
  unfold watchRoom
  split
  · split
    · exact evalXreq_frame p s
    · exact XreqFrame.refl s
  · exact XreqFrame.refl s

/-- The end of an event of the table or the store changes XREQ and burst progress only. -/
theorem endEvent_frame (s0 s : State) : XreqFrame s (endEvent s0 s) :=
  foldl_rel XreqFrame.refl (fun _ _ _ => XreqFrame.trans) _ (fun s p => watchRoom_frame s0 p s) allPorts s

/-- The end of a controller's event changes XREQ and burst progress only. -/
theorem endPortEvent_frame (p : PortId) (s0 s : State) : XreqFrame s (endPortEvent p s0 s) :=
  XreqFrame.trans (evalXreq_frame p s) (endEvent_frame s0 _)

/-! ## Operations of the table at one channel -/

/-- What an operation of the table at channel ch leaves: the device, the other channels, the marks, the pool's bytes and
codes, the expiry notices, and every port but for the events it accepted. -/
def TableFrame (ch : ChanId) (s t : State) : Prop :=
  deviceKept s t ∧ otherChansKept ch s t ∧ t.store.pool = s.store.pool ∧ t.store.codes = s.store.codes
    ∧ t.store.notices = s.store.notices ∧ ∀ q, t.port q = (s.port q).withEventsOf (t.port q)

theorem TableFrame.refl (ch : ChanId) (s : State) : TableFrame ch s s :=
  ⟨deviceKept_refl s, ⟨fun _ _ => rfl, fun _ => rfl⟩, rfl, rfl, rfl, fun _ => rfl⟩

theorem TableFrame.trans {ch : ChanId} {a b c : State} (h : TableFrame ch a b) (k : TableFrame ch b c) :
    TableFrame ch a c := by
  obtain ⟨h1, ⟨h2, h2'⟩, h3, h4, h5, h6⟩ := h
  obtain ⟨k1, ⟨k2, k2'⟩, k3, k4, k5, k6⟩ := k
  refine ⟨deviceKept_trans h1 k1, ⟨fun d hd => (k2 d hd).trans (h2 d hd), fun q => (k2' q).trans (h2' q)⟩, k3.trans h3,
    k4.trans h4, k5.trans h5, fun q => ?_⟩
  rw [k6 q, h6 q]
  rfl

theorem TableFrame.foldl {α : Type} {ch : ChanId} (f : State → α → State) (hf : ∀ s x, TableFrame ch s (f s x))
    (xs : List α) (s : State) : TableFrame ch s (xs.foldl f s) :=
  foldl_rel (TableFrame.refl ch) (fun _ _ _ => TableFrame.trans) f hf xs s

theorem TableFrame.modChan (ch : ChanId) (f : Channel → Channel) (s : State) : TableFrame ch s (s.modChan ch f) :=
  ⟨deviceKept_refl s, ⟨fun _ hd => State.modChan_chan_ne s f hd, fun _ => rfl⟩, rfl, rfl, rfl, fun _ => rfl⟩

theorem TableFrame.setChan (ch : ChanId) (c : Channel) (s : State) : TableFrame ch s (s.setChan ch c) :=
  TableFrame.modChan ch (fun _ => c) s

theorem TableFrame.setStore (ch : ChanId) (s : State) (st : Store) (h1 : st.pool = s.store.pool)
    (h2 : st.codes = s.store.codes) (h3 : st.notices = s.store.notices) : TableFrame ch s (s.setStore st) :=
  ⟨deviceKept_refl s, ⟨fun _ _ => rfl, fun _ => rfl⟩, h1, h2, h3, fun _ => rfl⟩

/-- A raised event changes the event queue and the lost count of its port only (R151 to R153). -/
theorem takeEvent_withEventsOf (q : PortState) (e : Event) : q.takeEvent e = q.withEventsOf (q.takeEvent e) := by
  unfold PortState.takeEvent PortState.queueEvent PortState.withEventsOf
  split
  · split
    · rfl
    · split <;> rfl
  · rfl

theorem raise_frame (ch : ChanId) (p : PortId) (e : Event) (s : State) : TableFrame ch s (raise p e s) := by
  refine ⟨deviceKept_refl s, ⟨fun _ _ => rfl, fun _ => rfl⟩, rfl, rfl, rfl, fun q => ?_⟩
  unfold raise
  rw [State.modPort_port]
  split
  · next h => subst h; exact takeEvent_withEventsOf _ e
  · rfl

theorem raiseEach_frame (ch : ChanId) (ps : List PortId) (e : Event) (s : State) : TableFrame ch s (raiseEach ps e s) :=
  TableFrame.foldl _ (fun s p => raise_frame ch p e s) ps s

theorem forPorts_frame {ch : ChanId} (f : PortId → State → State) (hf : ∀ p s, TableFrame ch s (f p s)) (s : State) :
    TableFrame ch s (forPorts f s) :=
  TableFrame.foldl _ (fun s p => hf p s) allPorts s

theorem countOverrun_frame (ch : ChanId) (p : PortId) (s : State) : TableFrame ch s (countOverrun ch p s) :=
  TableFrame.trans (TableFrame.modChan ch _ s) (raise_frame ch p _ _)

theorem countOverruns_frame (ch : ChanId) (ps : List PortId) (s : State) : TableFrame ch s (countOverruns ch ps s) :=
  TableFrame.foldl _ (fun s p => countOverrun_frame ch p s) ps s

/-- What a change of the table's fields comes to, whatever the store answers (R8, R12). -/
theorem changeFields_eq (s : State) (r : RecId) (f : Record → Record) :
    s.changeFields r f = if (s.record r).state = .sealed then s.setStore (s.store.setRecord r (f (s.record r))) else s := by
  unfold State.changeFields Store.setFields State.record
  by_cases h : (s.store.record r).state = .sealed <;> simp [h]

theorem changeFields_frame (ch : ChanId) (r : RecId) (f : Record → Record) (s : State) :
    TableFrame ch s (s.changeFields r f) := by
  rw [changeFields_eq]
  split
  · exact TableFrame.setStore ch s _ rfl rfl rfl
  · exact TableFrame.refl ch s

/-- A retirement keeps the pool's bytes, its codes and the notices (R11). -/
theorem Store.retire_kept {st st' : Store} {r : RecId} {x : Retirement} (h : st.retire r = .ok (x, st')) :
    st'.pool = st.pool ∧ st'.codes = st.codes ∧ st'.notices = st.notices := by
  unfold Store.retire at h
  simp only at h
  split at h
  · cases h
  · split at h <;> (cases h; exact ⟨rfl, rfl, rfl⟩)

theorem retireRecord_frame (ch : ChanId) (r : RecId) (s : State) : TableFrame ch s (retireRecord ch r s).1 := by
  unfold retireRecord
  split
  · next h =>
    obtain ⟨h1, h2, h3⟩ := Store.retire_kept h
    exact TableFrame.trans (TableFrame.setStore ch s _ h1 h2 h3) (TableFrame.modChan ch _ _)
  · next h =>
    obtain ⟨h1, h2, h3⟩ := Store.retire_kept h
    exact TableFrame.trans (TableFrame.setStore ch s _ h1 h2 h3) (TableFrame.modChan ch _ _)
  · exact TableFrame.refl ch s

theorem removeMessage_frame (ch : ChanId) (r : RecId) (s : State) : TableFrame ch s (removeMessage ch r s).1 :=
  TableFrame.trans (TableFrame.modChan ch _ s) (retireRecord_frame ch r _)

theorem dropReader_frame (ch : ChanId) (p : PortId) (r : RecId) (s : State) : TableFrame ch s (dropReader ch p r s) := by
  unfold dropReader
  split
  · simp only
    split
    · exact TableFrame.trans (changeFields_frame ch r _ s) (removeMessage_frame ch r _)
    · exact changeFields_frame ch r _ s
  · exact TableFrame.refl ch s

theorem dropReaders_frame (ch : ChanId) (p : PortId) (rs : List RecId) (s : State) :
    TableFrame ch s (dropReaders ch p rs s) :=
  TableFrame.foldl _ (fun s r => dropReader_frame ch p r s) rs s

theorem dropAllReaders_frame (ch : ChanId) (p : PortId) (s : State) : TableFrame ch s (dropAllReaders ch p s) :=
  dropReaders_frame ch p _ s

theorem emptyLog_frame (ch : ChanId) (s : State) : TableFrame ch s (emptyLog ch s) :=
  TableFrame.foldl _ (fun s r => removeMessage_frame ch r s) _ s

theorem promotePort_frame (ch : ChanId) (p : PortId) (s : State) : TableFrame ch s (promotePort ch p s) := by
  unfold promotePort
  split
  · exact TableFrame.modChan ch _ s
  · exact TableFrame.refl ch s

theorem promotePorts_frame (ch : ChanId) (ps : List PortId) (s : State) : TableFrame ch s (promotePorts ch ps s) := by
  unfold promotePorts
  split
  · exact TableFrame.foldl _ (fun s p => promotePort_frame ch p s) ps s
  · exact TableFrame.refl ch s

theorem promote_frame (ch : ChanId) (s : State) : TableFrame ch s (promote ch s) := promotePorts_frame ch allPorts s

theorem becomeUnused_frame (ch : ChanId) (s : State) : TableFrame ch s (becomeUnused ch s) :=
  TableFrame.trans (raiseEach_frame ch _ _ s) (TableFrame.setChan ch _ _)

theorem evaluateDrain_frame (ch : ChanId) (s : State) : TableFrame ch s (evaluateDrain ch s) := by
  unfold evaluateDrain
  split
  · exact becomeUnused_frame ch s
  · exact TableFrame.refl ch s

/-- The end of an event at a channel. -/
theorem settle_frame (ch : ChanId) (s : State) : TableFrame ch s (settle ch s) :=
  TableFrame.trans (promote_frame ch s) (evaluateDrain_frame ch _)

theorem evict_frame (ch : ChanId) (r : RecId) (s : State) : TableFrame ch s (evict ch r s) :=
  TableFrame.trans (TableFrame.trans (TableFrame.trans (TableFrame.modChan ch _ s) (countOverruns_frame ch _ _))
    (TableFrame.modChan ch _ _)) (retireRecord_frame ch r _)

theorem checkDepth_frame {ch : ChanId} {s t : State} {n : Nat} (h : checkDepth ch s = .ok (n, t)) : TableFrame ch s t := by
  unfold checkDepth at h
  simp only at h
  split at h
  · split at h
    · cases h; exact TableFrame.refl ch s
    · split at h
      · split at h
        · cases h; exact evict_frame ch _ s
        · cases h
      · cases h
  · split at h
    · cases h; exact TableFrame.refl ch s
    · cases h
  · cases h; exact TableFrame.refl ch s
  · cases h; exact TableFrame.refl ch s

/-- An allocation keeps the pool's bytes, its codes and the notices (R5). -/
theorem Store.allocate_kept {st st' : Store} {a : Allocation} {r : RecId} (h : st.allocate a = .ok (r, st')) :
    st'.pool = st.pool ∧ st'.codes = st.codes ∧ st'.notices = st.notices := by
  unfold Store.allocate at h
  split at h
  · cases h
  · split at h
    · cases h; exact ⟨rfl, rfl, rfl⟩
    · cases h

theorem reserve_frame (a : Allocation) (n : Nat) (s : State) : TableFrame a.channel s (reserve a n s).2 := by
  unfold reserve
  split
  · exact TableFrame.refl _ s
  · split
    · exact TableFrame.refl _ s
    · next h =>
      obtain ⟨h1, h2, h3⟩ := Store.allocate_kept h
      exact TableFrame.trans (TableFrame.setStore _ s _ h1 h2 h3) (TableFrame.modChan _ _ _)

/-- Admission works at its channel only, whatever it answers (R85 to R89). -/
theorem admission_frame (a : Allocation) (s : State) : TableFrame a.channel s (admission a s).2 := by
  unfold admission
  simp only
  split
  · exact TableFrame.refl _ s
  · split
    · exact TableFrame.refl _ s
    · split
      · exact TableFrame.refl _ s
      · split
        · exact TableFrame.refl _ s
        · split
          · exact TableFrame.refl _ s
          · next h =>
            split
            · exact TableFrame.trans (checkDepth_frame h) (reserve_frame a _ _)
            · exact checkDepth_frame h

theorem Store.abort_kept {st st' : Store} {r : RecId} {n : Nat} (h : st.abort r = .ok (n, st')) :
    st'.pool = st.pool ∧ st'.codes = st.codes ∧ st'.notices = st.notices := by
  unfold Store.abort at h
  split at h
  · cases h; exact ⟨rfl, rfl, rfl⟩
  · cases h

theorem abortFilling_frame (ch : ChanId) (p : PortId) (r : RecId) (s : State) :
    TableFrame ch s (abortFilling ch p r s) := by
  unfold abortFilling
  split
  · split
    · next h =>
      obtain ⟨h1, h2, h3⟩ := Store.abort_kept h
      exact TableFrame.trans (TableFrame.setStore ch s _ h1 h2 h3) (TableFrame.modChan ch _ _)
    · exact TableFrame.refl ch s
  · exact TableFrame.refl ch s

theorem raiseArrivals_frame (ch : ChanId) (seq : Half) (ps : List PortId) (edge : PortId → Bool) (s : State) :
    TableFrame ch s (raiseArrivals ch seq ps edge s) :=
  raiseEach_frame ch _ _ s

theorem lossySkip_frame (ch : ChanId) (p : PortId) (s : State) : TableFrame ch s (lossySkip ch p s) := by
  unfold lossySkip
  split
  · split
    · exact TableFrame.trans (dropReader_frame ch p _ s) (countOverrun_frame ch p _)
    · exact TableFrame.refl ch s
  · exact TableFrame.refl ch s

theorem deliverFanout_frame (before : State) (ch : ChanId) (r : RecId) (seq : Half) (s : State) :
    TableFrame ch s (deliverFanout before ch r seq s).1 := by
  unfold deliverFanout
  simp only
  split
  · exact TableFrame.trans (changeFields_frame ch r _ s) (removeMessage_frame ch r _)
  · dsimp only
    refine TableFrame.trans ?_ (raiseArrivals_frame ch _ _ _ _)
    refine TableFrame.trans ?_ (promote_frame ch _)
    refine TableFrame.trans ?_ (forPorts_frame (lossySkip ch) (fun p s => lossySkip_frame ch p s) _)
    exact changeFields_frame ch r _ s

theorem deliverQueue_frame (before : State) (ch : ChanId) (seq : Half) (s : State) :
    TableFrame ch s (deliverQueue before ch seq s) :=
  raiseArrivals_frame ch _ _ _ s

theorem deliverLatest_frame (before : State) (ch : ChanId) (r : RecId) (seq : Half) (s : State) :
    TableFrame ch s (deliverLatest before ch r seq s).1 := by
  unfold deliverLatest
  exact TableFrame.trans (TableFrame.trans (TableFrame.foldl _ (fun s o => removeMessage_frame ch o s) _ s)
    (forPorts_frame _ (fun p s => TableFrame.modChan ch _ s) _)) (raiseArrivals_frame ch _ _ _ _)

theorem Store.sealRecord_kept {st st' : Store} {now : TickCount} {r : RecId} {seq : Half}
    (h : st.sealRecord now r seq = .ok st') :
    st'.pool = st.pool ∧ st'.codes = st.codes ∧ st'.notices = st.notices := by
  unfold Store.sealRecord at h
  simp only at h
  split at h
  · cases h
  · split at h
    · cases h
    · cases h; exact ⟨rfl, rfl, rfl⟩

/-- A seal works at its channel only, whatever it answers (R93). -/
theorem sealMessage_frame (ch : ChanId) (p : PortId) (r : RecId) (s : State) :
    TableFrame ch s (sealMessage ch p r s).2 := by
  unfold sealMessage
  split
  · simp only
    split
    · exact TableFrame.refl ch s
    · next st h =>
      obtain ⟨h1, h2, h3⟩ := Store.sealRecord_kept h
      have h0 : TableFrame ch s ((s.setStore st).modChan ch fun c =>
          { c with log := c.log ++ [r], nextSeq := nextSequence (s.chan ch).nextSeq, reserved := c.reserved - 1,
                   posted := c.posted + 1#16 }) :=
        TableFrame.trans (TableFrame.setStore ch s st h1 h2 h3) (TableFrame.modChan ch _ _)
      split
      · exact TableFrame.trans h0 (deliverFanout_frame s ch r _ _)
      · exact TableFrame.trans h0 (deliverQueue_frame s ch _ _)
      · exact TableFrame.trans h0 (deliverLatest_frame s ch r _ _)
      · exact h0
  · exact TableFrame.refl ch s

theorem abandonClaim_frame (ch : ChanId) (r : RecId) (s : State) : TableFrame ch s (abandonClaim ch r s) := by
  unfold abandonClaim
  simp only
  split
  · exact changeFields_frame ch r _ s
  · split
    · exact TableFrame.trans (TableFrame.trans (TableFrame.trans (changeFields_frame ch r _ s) (TableFrame.modChan ch _ _))
        (retireRecord_frame ch r _)) (raise_frame ch _ _ _)
    · exact TableFrame.trans (TableFrame.trans (changeFields_frame ch r _ s) (TableFrame.modChan ch _ _))
        (retireRecord_frame ch r _)

theorem abandonClaims_frame (ch : ChanId) (p : PortId) (s : State) : TableFrame ch s (abandonClaims ch p s) := by
  unfold abandonClaims
  split
  · exact TableFrame.foldl _ (fun s r => abandonClaim_frame ch r s) _ s
  · exact TableFrame.refl ch s

/-! ## The whole of a command -/

/-- `withChannel` keeps what its body keeps. -/
theorem withChannel_frame {ch : ChanId} (body : State → TableAnswer × State)
    (hb : ∀ s, TableFrame ch s (body s).2) (s : State) : TableFrame ch s (withChannel ch body s).2 := by
  unfold withChannel
  split
  · exact TableFrame.refl ch s
  · exact TableFrame.trans (hb s) (promote_frame ch _)

theorem withAdmin_frame {p : PortId} {ch : ChanId} (body : State → TableAnswer × State)
    (hb : ∀ s, TableFrame ch s (body s).2) (s : State) : TableFrame ch s (withAdmin p ch body s).2 := by
  unfold withAdmin
  refine withChannel_frame _ (fun s => ?_) s
  split
  · exact hb s
  · exact TableFrame.refl ch s

end Sys2Proof.Machine
end

