-- ==== Sys2Proof/Laws/Commands.lean ====
section
/-! SUPPORT. The front door of a controller's commands (R137, R163): what a command that is taken comes to, and what
every command that is only answered leaves. -/

namespace Sys2Proof.Machine

/-! ## The end of an event where no room changed (R126) -/

/-- No room changes where the store's free list, and the quota and blocks in use of every channel, are as they were. -/
theorem roomChanged_of_same {s0 s : State} (h1 : s.store = s0.store) (h2 : s.table = s0.table) (ch : ChanId) :
    roomChanged s0 s ch = false := by
  simp [roomChanged, h1, State.chan, h2]

theorem watchRoom_eq {s0 : State} {p : PortId} {s : State} (h : ∀ ch, roomChanged s0 s ch = false) :
    watchRoom s0 p s = s := by
  unfold watchRoom
  split
  · simp [h]
  · rfl

theorem endEvent_eq {s0 s : State} (h : ∀ ch, roomChanged s0 s ch = false) : endEvent s0 s = s := by
  unfold endEvent forPorts
  have : ∀ ps : List PortId, ps.foldl (fun s p => watchRoom s0 p s) s = s := by
    intro ps
    induction ps with
    | nil => rfl
    | cons p ps ih => simpa [watchRoom_eq h] using ih
  exact this allPorts

/-- A controller's event that leaves store and table ends with the evaluation of its own XREQ only. -/
theorem endPortEvent_eq {p : PortId} {s0 s : State} (h1 : s.store = s0.store) (h2 : s.table = s0.table) :
    endPortEvent p s0 s = evalXreq p s :=
  endEvent_eq fun ch => roomChanged_of_same (s := evalXreq p s) h1 h2 ch

/-! ## A command that is only answered -/

/-- The state after the head command of port p was answered and nothing else happened (R163). -/
def answeredOnly (p : PortId) (c : Command) (st : Status) (results : List Byte) (s : State) : State :=
  evalXreq p (answer p c st results (popCommand p s))

theorem endPortEvent_answer (p : PortId) (c : Command) (st : Status) (results : List Byte) (s : State) :
    endPortEvent p s (answer p c st results (popCommand p s)) = answeredOnly p c st results s :=
  endPortEvent_eq rfl rfl

theorem answeredOnly_answered (p : PortId) (c : Command) (st : Status) (results : List Byte) (s : State) :
    answered p c st results s (answeredOnly p c st results s) := by
  simp [answered, answeredOnly, evalXreq, answer, popCommand, Link.answering]

theorem answeredOnly_onlyPort (p : PortId) (c : Command) (st : Status) (results : List Byte) (s : State) :
    onlyPort p s (answeredOnly p c st results s) :=
  onlyPort_trans (onlyPort_trans (popCommand_onlyPort p s) (answer_onlyPort p c st results _)) (evalXreq_onlyPort p _)

theorem answeredOnly_kept (p : PortId) (c : Command) (st : Status) (results : List Byte) (s : State) :
    portKeptButLink p s (answeredOnly p c st results s) := by
  simp [portKeptButLink, answeredOnly, evalXreq, answer, popCommand, PortState.withXreqOf, PortState.withLinkOf,
    PortState.modStream, PortState.modLink, Stream.driveXreq]

/-! ## Which command is taken -/

theorem nextCommand_of_takesNext {s : State} {p : PortId} {c : Command} (h : takesNext s p c) : nextCommand s p = some c := by
  obtain ⟨h1, h2, h3, _⟩ := h
  simp [nextCommand, State.running, h1, h2, h3]

theorem takesNext_of_atTable {s : State} {p : PortId} {c : Command} (h : takesNextAtTable s p c) : takesNext s p c := h.1

/-- In PRESENT no command is refused by the state (R137). -/
theorem stateRefuses_present (code : Byte) : stateRefuses .present code = none := rfl

/-- The checks of a command in PRESENT (R163 checks 3 and 4). -/
theorem checkCommand_present {α : Type} (parse : List Byte → Option α) (own : PortState → α → Option Status) (q : PortState)
    (c : Command) (a : α) (h : q.record.state = .present) (hp : parse c.params = some a) (ho : own q a = none) :
    checkCommand parse own q c = .ok a := by
  simp [checkCommand, h, stateRefuses, hp, ho]

/-- A parameter out of range in a state that takes the command is answered LIMIT (R163 check 3). -/
theorem checkCommand_limit {α : Type} (parse : List Byte → Option α) (own : PortState → α → Option Status) (q : PortState)
    (c : Command) (h : q.record.state = .present) (hp : parse c.params = none) :
    checkCommand parse own q c = .error .limit := by
  simp [checkCommand, h, stateRefuses, hp]

/-- A state that refuses the command answers first (R137, R163 check 2). -/
theorem checkCommand_refused {α : Type} (parse : List Byte → Option α) (own : PortState → α → Option Status) (q : PortState)
    (c : Command) (st : Status) (h : stateRefuses q.record.state c.code = some st) :
    checkCommand parse own q c = .error st := by
  simp [checkCommand, h]

/-! ## What a command that is taken comes to -/

/-- A command of the controller's own that passes its checks has its effect. -/
theorem takeCommand_ok {α : Type} {p : PortId} {row : Command → Bool} {parse : List Byte → Option α}
    {own : PortState → α → Option Status} {act : Command → α → State → State} {s : State} {c : Command} {a : α}
    (h : takesNext s p c) (hr : row c = true) (hc : checkCommand parse own (s.port p) c = .ok a) :
    takeCommand p row parse own act s = endPortEvent p s (act c a (popCommand p s)) := by
  simp [takeCommand, nextCommand_of_takesNext h, h.2.2.2, hr, hc]

/-- A command of the controller's own that fails a check is answered and nothing else. -/
theorem takeCommand_error {α : Type} {p : PortId} {row : Command → Bool} {parse : List Byte → Option α}
    {own : PortState → α → Option Status} {act : Command → α → State → State} {s : State} {c : Command} {st : Status}
    (h : takesNext s p c) (hr : row c = true) (hc : checkCommand parse own (s.port p) c = .error st) :
    takeCommand p row parse own act s = answeredOnly p c st [] s := by
  simp [takeCommand, nextCommand_of_takesNext h, h.2.2.2, hr, hc, endPortEvent_answer]

/-- A row whose command needs the table: a command that passes its checks has its effect. -/
theorem commandAtTable_ok {α : Type} {p : PortId} {row : Command → Bool} {parse : List Byte → Option α}
    {own : PortState → α → Option Status} {act : Command → α → State → State} {orphan : State → State} {s : State}
    {c : Command} {a : α} (h : takesNextAtTable s p c) (hr : row c = true)
    (hc : checkCommand parse own (s.port p) c = .ok a) :
    commandAtTable p row parse own act orphan s = endPortEvent p s (act c a (popCommand p s)) := by
  simp [commandAtTable, nextCommand_of_takesNext h.1, h.1.2.2.2, hr, hc, h.2.2]

/-- A row whose command needs the table: a command that fails a check of the controller's is answered and nothing else,
whatever waits on the path to the table (R163). -/
theorem commandAtTable_error {α : Type} {p : PortId} {row : Command → Bool} {parse : List Byte → Option α}
    {own : PortState → α → Option Status} {act : Command → α → State → State} {orphan : State → State} {s : State}
    {c : Command} {st : Status} (h : takesNext s p c) (hr : row c = true)
    (hc : checkCommand parse own (s.port p) c = .error st) :
    commandAtTable p row parse own act orphan s = answeredOnly p c st [] s := by
  simp [commandAtTable, nextCommand_of_takesNext h, h.2.2.2, hr, hc, endPortEvent_answer]

/-- A row whose command needs the table, with no command to take: it is the row of a request that a port reset left
(R146). -/
theorem commandAtTable_orphan {α : Type} {p : PortId} {row : Command → Bool} {parse : List Byte → Option α}
    {own : PortState → α → Option Status} {act : Command → α → State → State} {orphan : State → State} {s : State}
    (h : nextCommand s p = none) : commandAtTable p row parse own act orphan s = orphan s := by
  simp [commandAtTable, h]

/-- A command that needs the table and passes its checks has the table's event, and the answer follows. -/
theorem tableCommand_ok {α : Type} {p : PortId} {row : Command → Bool} {parse : List Byte → Option α}
    {own : PortState → α → Option Status} {event : α → State → TableAnswer × State}
    {finish : Command → α → TableAnswer → State → State} {s : State} {c : Command} {a : α}
    (h : takesNextAtTable s p c) (hr : row c = true) (hc : checkCommand parse own (s.port p) c = .ok a) :
    tableCommand p row parse own event finish s =
      endPortEvent p s (finish c a (event a (popCommand p s)).1 (event a (popCommand p s)).2) :=
  commandAtTable_ok h hr hc

/-- A command that needs the table and fails a check of the controller's is answered and nothing else, whatever waits on
the path to the table. -/
theorem tableCommand_error {α : Type} {p : PortId} {row : Command → Bool} {parse : List Byte → Option α}
    {own : PortState → α → Option Status} {event : α → State → TableAnswer × State}
    {finish : Command → α → TableAnswer → State → State} {s : State} {c : Command} {st : Status}
    (h : takesNext s p c) (hr : row c = true) (hc : checkCommand parse own (s.port p) c = .error st) :
    tableCommand p row parse own event finish s = answeredOnly p c st [] s :=
  commandAtTable_error h hr hc

/-- The request of an orphaned command is taken by the event that takes the command itself (R146). -/
theorem takeOrphanCommand_eq {α : Type} {p : PortId} {row : Command → Bool} {parse : List Byte → Option α}
    {event : α → State → TableAnswer × State} {s : State} {c : Command} {a : α}
    (h : orphanRequest s p = some (.command c)) (hr : row c = true) (hp : parse c.params = some a) :
    takeOrphanCommand p row parse event s = takeOrphan p (event a) s := by
  simp [takeOrphanCommand, h, hr, hp]

/-- `withChannel` on a channel that is not UNUSED runs its body and promotes (R26, R53). -/
theorem withChannel_used {ch : ChanId} {body : State → TableAnswer × State} {s : State} (h : (s.chan ch).state ≠ .unused) :
    withChannel ch body s = ((body s).1, promote ch (body s).2) := by
  simp [withChannel, h]

/-- `withChannel` on an UNUSED channel answers NOCHANNEL with no effect (R26). -/
theorem withChannel_unused {ch : ChanId} {body : State → TableAnswer × State} {s : State} (h : (s.chan ch).state = .unused) :
    withChannel ch body s = ({ status := .nochannel }, s) := by
  simp [withChannel, h]

/-- Promotions leave the store as it is (R53). -/
theorem promotePorts_store (ch : ChanId) (ps : List PortId) (s : State) : (promotePorts ch ps s).store = s.store := by
  unfold promotePorts
  split
  · refine foldl_rel (R := fun a b : State => b.store = a.store) (fun _ => rfl) (fun _ _ _ h k => k.trans h) _ ?_ ps s
    intro s p
    unfold promotePort
    split <;> rfl
  · rfl

/-- Promotions leave the ports as they are (R53: promotion raises no event). -/
theorem promotePorts_ports (ch : ChanId) (ps : List PortId) (s : State) : (promotePorts ch ps s).ports = s.ports := by
  unfold promotePorts
  split
  · refine foldl_rel (R := fun a b : State => b.ports = a.ports) (fun _ => rfl) (fun _ _ _ h k => k.trans h) _ ?_ ps s
    intro s p
    unfold promotePort
    split <;> rfl
  · rfl

theorem promote_store (ch : ChanId) (s : State) : (promote ch s).store = s.store := promotePorts_store ch allPorts s

theorem promote_ports (ch : ChanId) (s : State) : (promote ch s).ports = s.ports := promotePorts_ports ch allPorts s

/-! ## What waits on a port's path (R25, R45) -/

/-- Nothing waits, nothing is taken. -/
theorem takeWaiting_nil {p : PortId} {s : State} (h : (s.port p).toTable = []) : takeWaiting p s = s := by
  simp [takeWaiting, h]

/-- What waits is taken one by one. -/
theorem takeWaiting_cons {p : PortId} {s : State} {m : TableMsg} {rest : List TableMsg}
    (h : (s.port p).toTable = m :: rest) :
    takeWaiting p s = rest.foldl (fun s _ => takePathHead p s) (takePathHead p s) := by
  simp [takeWaiting, h]

theorem takePathHead_pause {p : PortId} {s : State} {rest : List TableMsg}
    (h : (s.port p).toTable = .pauseNotice :: rest) : takePathHead p s = pauseAtTable p (popTable p s) := by
  simp [takePathHead, headMsg, h]

theorem takePathHead_resume {p : PortId} {s : State} {rest : List TableMsg}
    (h : (s.port p).toTable = .resumeNotice :: rest) : takePathHead p s = resumeAtTable p (popTable p s) := by
  simp [takePathHead, headMsg, h]

theorem takePathHead_abort {p : PortId} {s : State} {r : RecId} {ch : ChanId} {rest : List TableMsg}
    (h : (s.port p).toTable = .abort r ch :: rest) :
    takePathHead p s = settle ch (abortFilling ch p r (popTable p s)) := by
  simp [takePathHead, headMsg, h]

end Sys2Proof.Machine
end

