-- ==== Sys2Proof/Laws/Events.lean ====
section
/-! SUPPORT. Event queues (chapter 9): what folding an event does, and that an accepted event is told. -/

namespace Sys2Proof.Machine

theorem EventRecord.matches_iff (x : EventRecord) (e : Event) :
    x.matches e = true ↔ x.kind = e.kind ∧ x.subject = e.subject := by
  simp [EventRecord.matches]

/-- Folding finds the first record of the kind and subject, and changes it where it stands (R152). -/
theorem foldEvent_some {e : Event} {xs ys : List EventRecord} (h : foldEvent e xs = some ys) :
    ∃ before x after, xs = before ++ x :: after ∧ ys = before ++ x.fold e :: after ∧ x.matches e = true
      ∧ ∀ y ∈ before, y.matches e = false := by
  induction xs generalizing ys with
  | nil => simp [foldEvent] at h
  | cons x xs ih =>
    simp only [foldEvent] at h
    split at h
    · next hm =>
      cases h
      exact ⟨[], x, xs, rfl, rfl, hm, by simp⟩
    · next hm =>
      simp only [Option.map_eq_some_iff] at h
      obtain ⟨zs, hz, rfl⟩ := h
      obtain ⟨b, y, a, h1, h2, h3, h4⟩ := ih hz
      refine ⟨x :: b, y, a, by simp [h1], by simp [h2], h3, ?_⟩
      intro z hz
      rcases List.mem_cons.1 hz with rfl | hz
      · simpa using hm
      · exact h4 z hz

/-- Folding fails when no record is of the kind and subject. -/
theorem foldEvent_none {e : Event} {xs : List EventRecord} (h : foldEvent e xs = none) : ∀ x ∈ xs, x.matches e = false := by
  induction xs with
  | nil => simp
  | cons x xs ih =>
    simp only [foldEvent] at h
    split at h
    · cases h
    · next hm =>
      simp only [Option.map_eq_none_iff] at h
      intro y hy
      rcases List.mem_cons.1 hy with rfl | hy
      · simpa using hm
      · exact ih h y hy

/-- An accepted event is on the queue or is counted as lost (R152, R153). An event that carries a sequence is ARRIVAL,
and one that carries a reason is PEER or STREAM_ABORTED. -/
theorem told_takeEvent (q : PortState) (e : Event) (h : q.accepts e = true)
    (hs : e.sequence.isSome = true → e.kind = .arrival)
    (hr : e.reason.isSome = true → e.kind = .peer ∨ e.kind = .streamAborted) : told (q.takeEvent e) e := by
  unfold PortState.takeEvent
  rw [if_pos h]
  unfold PortState.queueEvent
  split
  · next evs hf =>
    obtain ⟨b, x, a, _, h2, h3, _⟩ := foldEvent_some hf
    have hm := (EventRecord.matches_iff x e).1 h3
    refine .inl ⟨x.fold e, by simp [h2], hm.1, hm.2, fun hr' => ?_, fun hs' => ?_⟩
    · simp [EventRecord.fold, hr hr']
    · simp [EventRecord.fold, hs hs']
  · split
    · exact .inl ⟨⟨e.kind, e.subject, e.sequence, 1, e.reason⟩, by simp, rfl, rfl, fun _ => rfl, fun _ => rfl⟩
    · next hl =>
      refine .inr ⟨by simpa [Config.eventCapacity] using hl, ?_⟩
      show 0 < min 255 (q.lost + 1)
      omega

/-- An event raised to a port that accepts it is told to it. -/
theorem told_raise (p : PortId) (e : Event) (s : State) (h : (s.port p).accepts e = true)
    (hs : e.sequence.isSome = true → e.kind = .arrival)
    (hr : e.reason.isSome = true → e.kind = .peer ∨ e.kind = .streamAborted) : told ((raise p e s).port p) e := by
  unfold raise
  rw [State.modPort_port_self]
  exact told_takeEvent _ e h hs hr

/-- An event stays told when another one is taken, unless that one folds into its record and changes what it says. -/
theorem told_mono {q : PortState} {e : Event} (e' : Event) (h : told q e)
    (hd : ¬ (e'.kind = e.kind ∧ e'.subject = e.subject) ∨ (e.reason = none ∧ e.sequence = none)) :
    told (q.takeEvent e') e := by
  unfold PortState.takeEvent
  split
  · unfold PortState.queueEvent
    split
    · next evs hf =>
      obtain ⟨b, x, a, h1, h2, h3, _⟩ := foldEvent_some hf
      have hm := (EventRecord.matches_iff x e').1 h3
      rcases h with ⟨y, hy, hk, hj, hr, hs⟩ | ⟨hl, h0⟩
      · by_cases hyx : y = x
        · subst hyx
          rcases hd with hd | ⟨hn, hn'⟩
          · exact absurd ⟨hm.1.symm.trans hk, hm.2.symm.trans hj⟩ hd
          · exact .inl ⟨y.fold e', by simp [h2], hk, hj, by simp [hn], by simp [hn']⟩
        · refine .inl ⟨y, ?_, hk, hj, hr, hs⟩
          rw [h1] at hy
          simp only [List.mem_append, List.mem_cons] at hy
          simp only [h2, List.mem_append, List.mem_cons]
          rcases hy with hy | hy | hy
          · exact .inl hy
          · exact absurd hy hyx
          · exact .inr (.inr hy)
      · refine .inr ⟨?_, h0⟩
        simp only [h1, List.length_append, List.length_cons] at hl
        simp only [h2, List.length_append, List.length_cons]
        omega
    · split
      · rcases h with ⟨y, hy, hk, hj, hr, hs⟩ | ⟨hl, h0⟩
        · exact .inl ⟨y, by simp [hy], hk, hj, hr, hs⟩
        · exact .inr ⟨by simp; omega, h0⟩
      · rcases h with ⟨y, hy, hk, hj, hr, hs⟩ | ⟨hl, h0⟩
        · exact .inl ⟨y, hy, hk, hj, hr, hs⟩
        · refine .inr ⟨hl, ?_⟩
          show 0 < min 255 (q.lost + 1)
          omega
  · exact h

end Sys2Proof.Machine
end

