-- ==== Sys2Proof/Laws/Memory.lean ====
section
/-! SUPPORT. The pool's contents: a write keeps the canonical form, and reading after a write. -/

namespace Sys2Proof.Machine

/-- A weaker lower bound. -/
theorem Memory.wfFrom_mono {lo lo' : Nat} (m : Memory) (h : lo' ≤ lo) (hw : Memory.wfFrom lo m = true) :
    Memory.wfFrom lo' m = true := by
  cases m with
  | nil => rfl
  | cons e m =>
    obtain ⟨a, v⟩ := e
    simp only [Memory.wfFrom, Bool.and_eq_true, decide_eq_true_eq] at hw ⊢
    exact ⟨⟨⟨Nat.le_trans h hw.1.1.1, hw.1.1.2⟩, hw.1.2⟩, hw.2⟩

/-- Below its lower bound a memory lists nothing. -/
theorem Memory.read_below {lo : Nat} (m : Memory) (hw : Memory.wfFrom lo m = true) (a : Nat) (h : a < lo) : m.read a = 0 := by
  induction m generalizing lo with
  | nil => rfl
  | cons e m ih =>
    obtain ⟨b, v⟩ := e
    simp only [Memory.wfFrom, Bool.and_eq_true, decide_eq_true_eq] at hw
    have hb : lo ≤ b := hw.1.1.1
    have hne : a ≠ b := by omega
    simp only [Memory.read, hne, if_false]
    exact ih hw.2 (by omega)

/-- A write keeps the canonical form. -/
theorem Memory.wfFrom_write {lo : Nat} (m : Memory) (hw : Memory.wfFrom lo m = true) (a : Nat) (v : Byte) (hlo : lo ≤ a)
    (ha : a < 32768) : Memory.wfFrom lo (m.write a v) = true := by
  induction m generalizing lo with
  | nil =>
    simp only [Memory.write]
    split
    · rfl
    · next hv =>
      simp only [Memory.wfFrom, Bool.and_eq_true, decide_eq_true_eq, bne_iff_ne]
      exact ⟨⟨⟨hlo, ha⟩, hv⟩, trivial⟩
  | cons e m ih =>
    obtain ⟨b, w⟩ := e
    have hw' := hw
    simp only [Memory.wfFrom, Bool.and_eq_true, decide_eq_true_eq, bne_iff_ne] at hw
    obtain ⟨⟨⟨h1, h2⟩, h3⟩, h4⟩ := hw
    simp only [Memory.write]
    split
    · next hab =>
      split
      · exact hw'
      · next hv =>
        simp only [Memory.wfFrom, Bool.and_eq_true, decide_eq_true_eq, bne_iff_ne]
        exact ⟨⟨⟨hlo, ha⟩, hv⟩, ⟨⟨Nat.succ_le_of_lt hab, h2⟩, h3⟩, h4⟩
    · next hab =>
      split
      · next hEq =>
        subst hEq
        split
        · exact Memory.wfFrom_mono m (by omega) h4
        · next hv =>
          simp only [Memory.wfFrom, Bool.and_eq_true, decide_eq_true_eq, bne_iff_ne]
          exact ⟨⟨⟨hlo, ha⟩, hv⟩, h4⟩
      · next hEq =>
        simp only [Memory.wfFrom, Bool.and_eq_true, decide_eq_true_eq, bne_iff_ne]
        exact ⟨⟨⟨h1, h2⟩, h3⟩, ih h4 (by omega)⟩

/-- A write of a pool byte keeps the canonical form. -/
theorem Memory.wf_write (m : Memory) (hw : m.wf = true) (a : Nat) (v : Byte) (ha : a < 32768) : (m.write a v).wf = true :=
  Memory.wfFrom_write m hw a v (Nat.zero_le a) ha

/-- A byte read after a write, in canonical form. -/
theorem Memory.read_write_from {lo : Nat} (m : Memory) (hw : Memory.wfFrom lo m = true) (a : Nat) (v : Byte) (x : Nat) :
    (m.write a v).read x = if x = a then v else m.read x := by
  induction m generalizing lo with
  | nil =>
    simp only [Memory.write]
    split
    · next hv => subst hv; simp [Memory.read]
    · next hv => simp [Memory.read]
  | cons e m ih =>
    obtain ⟨b, w⟩ := e
    have hw' := hw
    simp only [Memory.wfFrom, Bool.and_eq_true, decide_eq_true_eq, bne_iff_ne] at hw
    obtain ⟨⟨⟨h1, h2⟩, h3⟩, h4⟩ := hw
    simp only [Memory.write]
    split
    · next hab =>
      split
      · next hv =>
        subst hv
        split
        · next hx =>
          subst hx
          have hne : x ≠ b := by omega
          simp only [Memory.read, hne, if_false]
          exact Memory.read_below m h4 x (by omega)
        · rfl
      · next hv => simp [Memory.read]
    · next hab =>
      split
      · next hEq =>
        subst hEq
        split
        · next hv =>
          subst hv
          split
          · next hx => subst hx; exact Memory.read_below m h4 x (by omega)
          · next hx => simp [Memory.read, hx]
        · next hv =>
          by_cases hx : x = a <;> simp [Memory.read, hx]
      · next hEq =>
        simp only [Memory.read]
        rw [ih h4]
        by_cases hx : x = b
        · subst hx; simp; intro h; omega
        · simp [hx]

/-- A byte read after a write. -/
theorem Memory.read_write (m : Memory) (hw : m.wf = true) (a : Nat) (v : Byte) (x : Nat) :
    (m.write a v).read x = if x = a then v else m.read x :=
  Memory.read_write_from m hw a v x

/-- Every payload address lies in the pool. -/
theorem payloadAddr_lt {chain : List BlockId} {k a : Nat} (h : payloadAddr chain k = some a) : a < 32768 := by
  simp only [payloadAddr, Option.map_eq_some_iff] at h
  obtain ⟨b, _, rfl⟩ := h
  have := b.isLt
  omega

/-- Storing payload bytes keeps the canonical form. -/
theorem writePayload_wf (chain : List BlockId) (k : Nat) (bs : List Byte) (m : Memory) (hw : m.wf = true) :
    (writePayload chain k bs m).wf = true := by
  induction bs generalizing k m with
  | nil => exact hw
  | cons b bs ih =>
    simp only [writePayload]
    apply ih
    split
    · next a h => exact Memory.wf_write m hw a b (payloadAddr_lt h)
    · exact hw

/-- Storing payload bytes leaves every byte that is none of them. -/
theorem writePayload_read_other (chain : List BlockId) (k : Nat) (bs : List Byte) (m : Memory) (hw : m.wf = true) (x : Nat)
    (h : ∀ i, i < bs.length → payloadAddr chain (k + i) ≠ some x) : (writePayload chain k bs m).read x = m.read x := by
  induction bs generalizing k m with
  | nil => rfl
  | cons b bs ih =>
    simp only [writePayload]
    have h0 : payloadAddr chain k ≠ some x := by simpa using h 0 (by simp)
    have hrest : ∀ i, i < bs.length → payloadAddr chain (k + 1 + i) ≠ some x := by
      intro i hi
      have := h (i + 1) (by simp; omega)
      rwa [show k + (i + 1) = k + 1 + i by omega] at this
    split
    · next a ha =>
      rw [ih (k + 1) _ (Memory.wf_write m hw a b (payloadAddr_lt ha)) hrest, Memory.read_write m hw]
      have : x ≠ a := by intro e; subst e; exact h0 ha
      simp [this]
    · exact ih (k + 1) m hw hrest

/-- Two payload positions of a chain without repeats have two addresses. -/
theorem payloadAddr_inj {chain : List BlockId} (hn : chain.Nodup) {i j a : Nat} (hi : payloadAddr chain i = some a)
    (hj : payloadAddr chain j = some a) : i = j := by
  simp only [payloadAddr, Option.map_eq_some_iff] at hi hj
  obtain ⟨b, hb, hba⟩ := hi
  obtain ⟨c, hc, hca⟩ := hj
  have hbc : b.val = c.val ∧ i % 64 = j % 64 := by omega
  have hbc' : b = c := Fin.ext hbc.1
  subst hbc'
  have hi' : i / 64 < chain.length := by
    rcases Nat.lt_or_ge (i / 64) chain.length with h | h
    · exact h
    · simp [List.getElem?_eq_none h] at hb
  have := (List.getElem?_inj hi' hn).1 (hb.trans hc.symm)
  omega

/-- Payload bytes stored at positions that the chain has read back as stored. -/
theorem writePayload_read (chain : List BlockId) (hn : chain.Nodup) (k : Nat) (bs : List Byte) (m : Memory)
    (hw : m.wf = true) (i a : Nat) (hi : i < bs.length) (ha : payloadAddr chain (k + i) = some a) :
    (writePayload chain k bs m).read a = bs[i] := by
  induction bs generalizing k m i with
  | nil => simp at hi
  | cons b bs ih =>
    simp only [writePayload]
    cases i with
    | zero =>
      have ha' : payloadAddr chain k = some a := by simpa using ha
      rw [ha']
      simp only []
      rw [writePayload_read_other chain (k + 1) bs _ (Memory.wf_write m hw a b (payloadAddr_lt ha')) a]
      · simp [Memory.read_write m hw]
      · intro j _ hj
        have := payloadAddr_inj hn ha' hj
        omega
    | succ i =>
      have ha' : payloadAddr chain (k + 1 + i) = some a := by rwa [show k + 1 + i = k + (i + 1) by omega]
      have hi' : i < bs.length := by simpa using hi
      have hm : Memory.wf (match payloadAddr chain k with | some a => m.write a b | none => m) = true := by
        split
        · next c hc => exact Memory.wf_write m hw c b (payloadAddr_lt hc)
        · exact hw
      simp only [List.getElem_cons_succ]
      exact ih (k + 1) _ hm i hi' ha'

/-- The memory after reset is in canonical form. -/
theorem reset_pool_wf : State.reset.store.pool.wf = true := rfl

/-- After reset every byte of the pool reads 00h. -/
theorem reset_pool_read (a : Nat) : State.reset.store.pool.read a = 0 := rfl

end Sys2Proof.Machine
end

