-- ==== Sys2Proof/WellFormed.lean ====
section
/-! DEFINITION. Which commands are well formed: the operand checks that the types do not already make. -/

namespace Sys2Proof

/-- The five frame type codes are 00h to 04h (R167). -/
def isFrameType (type : Byte) : Bool := type.toNat ≤ 4

/-- An INVALID_FRAME_TYPE frame has a type byte outside the five codes (R161), and an expiry notice names a sequence,
which is never 0 (R94). Every other operand is in range by its type. -/
def Instr.wellFormed : Instr → Bool
  | .invalidFrameType _ type _ => !isFrameType type
  | .expiryNotice n => n.sequence != 0
  | .attach _ | .detach _ | .checkin _ | .pause _ | .resume _ | .portQuery _ | .eventEnable _ | .eventRead _
  | .define _ | .lookup _ | .close _ | .closeForce _ | .purge _ | .modify _ | .channelQuery _
  | .subscribe _ | .unsubscribe _ | .subModify _ | .subQuery _
  | .post _ | .stage _ | .commit _ | .discard _ | .fetchPeek _ | .fetchConsume _ | .skip _
  | .openPost _ | .openFetch _ | .streamEnd _ | .streamStop _ | .streamQuery _ | .malformedCommand _
  | .chipSelectFall _ | .poll _ _ | .commandFrame _ _ | .responseFrame _ | .releaseByte _ _
  | .dataOut _ _ | .dataIn _ _ _ | .portReset _ _ | .prstRelease _ | .deviceReset | .powerOnReset
  | .deviceResetRelease _ | .poolInitialisationDone | .tick | .periodExpiry _ | .pauseExpiry _
  | .expiryTimerFire _ | .release _ | .abortRequest _ | .abandonmentRequest _ | .attachNotice _
  | .pauseNotice _ | .resumeNotice _ | .lapseNotice _ | .detachNotice _ | .resetNotice _
  | .answerReturnAfterReset _ | .drainComplete _ | .chipSelectRise _ _ => true

end Sys2Proof
end

