-- ==== Sys2Proof/Laws/PerInstr.lean ====
section
/-! SUPPORT. A law of every command as syntax: no word spells it, since the table gives no row any bits, and it is well
formed unless it is a frame with one of the five type codes sent as a frame of no type (R161), or an expiry notice that
names sequence 0 (R94). -/

namespace Sys2Proof.Laws.Rows

/-- The law of a command as syntax. -/
def Statement (i : Instr) : Prop :=
  (∀ nbits w, decodeTableWord nbits w ≠ some i)
    ∧ (i.wellFormed = true ↔ (∀ p type rest, i = .invalidFrameType p type rest → 4 < type.toNat)
        ∧ ∀ n, i = .expiryNotice n → n.sequence ≠ 0)

theorem attach (p : PortId) : Statement (.attach p) :=
  ⟨fun _ _ => nofun, fun _ => ⟨fun _ _ _ e => (nomatch e), fun _ e => (nomatch e)⟩, fun _ => rfl⟩

theorem detach (p : PortId) : Statement (.detach p) :=
  ⟨fun _ _ => nofun, fun _ => ⟨fun _ _ _ e => (nomatch e), fun _ e => (nomatch e)⟩, fun _ => rfl⟩

theorem checkin (p : PortId) : Statement (.checkin p) :=
  ⟨fun _ _ => nofun, fun _ => ⟨fun _ _ _ e => (nomatch e), fun _ e => (nomatch e)⟩, fun _ => rfl⟩

theorem pause (p : PortId) : Statement (.pause p) :=
  ⟨fun _ _ => nofun, fun _ => ⟨fun _ _ _ e => (nomatch e), fun _ e => (nomatch e)⟩, fun _ => rfl⟩

theorem resume (p : PortId) : Statement (.resume p) :=
  ⟨fun _ _ => nofun, fun _ => ⟨fun _ _ _ e => (nomatch e), fun _ e => (nomatch e)⟩, fun _ => rfl⟩

theorem portQuery (p : PortId) : Statement (.portQuery p) :=
  ⟨fun _ _ => nofun, fun _ => ⟨fun _ _ _ e => (nomatch e), fun _ e => (nomatch e)⟩, fun _ => rfl⟩

theorem eventEnable (p : PortId) : Statement (.eventEnable p) :=
  ⟨fun _ _ => nofun, fun _ => ⟨fun _ _ _ e => (nomatch e), fun _ e => (nomatch e)⟩, fun _ => rfl⟩

theorem eventRead (p : PortId) : Statement (.eventRead p) :=
  ⟨fun _ _ => nofun, fun _ => ⟨fun _ _ _ e => (nomatch e), fun _ e => (nomatch e)⟩, fun _ => rfl⟩

theorem define (p : PortId) : Statement (.define p) :=
  ⟨fun _ _ => nofun, fun _ => ⟨fun _ _ _ e => (nomatch e), fun _ e => (nomatch e)⟩, fun _ => rfl⟩

theorem lookup (p : PortId) : Statement (.lookup p) :=
  ⟨fun _ _ => nofun, fun _ => ⟨fun _ _ _ e => (nomatch e), fun _ e => (nomatch e)⟩, fun _ => rfl⟩

theorem close (p : PortId) : Statement (.close p) :=
  ⟨fun _ _ => nofun, fun _ => ⟨fun _ _ _ e => (nomatch e), fun _ e => (nomatch e)⟩, fun _ => rfl⟩

theorem closeForce (p : PortId) : Statement (.closeForce p) :=
  ⟨fun _ _ => nofun, fun _ => ⟨fun _ _ _ e => (nomatch e), fun _ e => (nomatch e)⟩, fun _ => rfl⟩

theorem purge (p : PortId) : Statement (.purge p) :=
  ⟨fun _ _ => nofun, fun _ => ⟨fun _ _ _ e => (nomatch e), fun _ e => (nomatch e)⟩, fun _ => rfl⟩

theorem modify (p : PortId) : Statement (.modify p) :=
  ⟨fun _ _ => nofun, fun _ => ⟨fun _ _ _ e => (nomatch e), fun _ e => (nomatch e)⟩, fun _ => rfl⟩

theorem channelQuery (p : PortId) : Statement (.channelQuery p) :=
  ⟨fun _ _ => nofun, fun _ => ⟨fun _ _ _ e => (nomatch e), fun _ e => (nomatch e)⟩, fun _ => rfl⟩

theorem subscribe (p : PortId) : Statement (.subscribe p) :=
  ⟨fun _ _ => nofun, fun _ => ⟨fun _ _ _ e => (nomatch e), fun _ e => (nomatch e)⟩, fun _ => rfl⟩

theorem unsubscribe (p : PortId) : Statement (.unsubscribe p) :=
  ⟨fun _ _ => nofun, fun _ => ⟨fun _ _ _ e => (nomatch e), fun _ e => (nomatch e)⟩, fun _ => rfl⟩

theorem subModify (p : PortId) : Statement (.subModify p) :=
  ⟨fun _ _ => nofun, fun _ => ⟨fun _ _ _ e => (nomatch e), fun _ e => (nomatch e)⟩, fun _ => rfl⟩

theorem subQuery (p : PortId) : Statement (.subQuery p) :=
  ⟨fun _ _ => nofun, fun _ => ⟨fun _ _ _ e => (nomatch e), fun _ e => (nomatch e)⟩, fun _ => rfl⟩

theorem post (p : PortId) : Statement (.post p) :=
  ⟨fun _ _ => nofun, fun _ => ⟨fun _ _ _ e => (nomatch e), fun _ e => (nomatch e)⟩, fun _ => rfl⟩

theorem stage (p : PortId) : Statement (.stage p) :=
  ⟨fun _ _ => nofun, fun _ => ⟨fun _ _ _ e => (nomatch e), fun _ e => (nomatch e)⟩, fun _ => rfl⟩

theorem commit (p : PortId) : Statement (.commit p) :=
  ⟨fun _ _ => nofun, fun _ => ⟨fun _ _ _ e => (nomatch e), fun _ e => (nomatch e)⟩, fun _ => rfl⟩

theorem discard (p : PortId) : Statement (.discard p) :=
  ⟨fun _ _ => nofun, fun _ => ⟨fun _ _ _ e => (nomatch e), fun _ e => (nomatch e)⟩, fun _ => rfl⟩

theorem fetchPeek (p : PortId) : Statement (.fetchPeek p) :=
  ⟨fun _ _ => nofun, fun _ => ⟨fun _ _ _ e => (nomatch e), fun _ e => (nomatch e)⟩, fun _ => rfl⟩

theorem fetchConsume (p : PortId) : Statement (.fetchConsume p) :=
  ⟨fun _ _ => nofun, fun _ => ⟨fun _ _ _ e => (nomatch e), fun _ e => (nomatch e)⟩, fun _ => rfl⟩

theorem skip (p : PortId) : Statement (.skip p) :=
  ⟨fun _ _ => nofun, fun _ => ⟨fun _ _ _ e => (nomatch e), fun _ e => (nomatch e)⟩, fun _ => rfl⟩

theorem openPost (p : PortId) : Statement (.openPost p) :=
  ⟨fun _ _ => nofun, fun _ => ⟨fun _ _ _ e => (nomatch e), fun _ e => (nomatch e)⟩, fun _ => rfl⟩

theorem openFetch (p : PortId) : Statement (.openFetch p) :=
  ⟨fun _ _ => nofun, fun _ => ⟨fun _ _ _ e => (nomatch e), fun _ e => (nomatch e)⟩, fun _ => rfl⟩

theorem streamEnd (p : PortId) : Statement (.streamEnd p) :=
  ⟨fun _ _ => nofun, fun _ => ⟨fun _ _ _ e => (nomatch e), fun _ e => (nomatch e)⟩, fun _ => rfl⟩

theorem streamStop (p : PortId) : Statement (.streamStop p) :=
  ⟨fun _ _ => nofun, fun _ => ⟨fun _ _ _ e => (nomatch e), fun _ e => (nomatch e)⟩, fun _ => rfl⟩

theorem streamQuery (p : PortId) : Statement (.streamQuery p) :=
  ⟨fun _ _ => nofun, fun _ => ⟨fun _ _ _ e => (nomatch e), fun _ e => (nomatch e)⟩, fun _ => rfl⟩

theorem malformedCommand (p : PortId) : Statement (.malformedCommand p) :=
  ⟨fun _ _ => nofun, fun _ => ⟨fun _ _ _ e => (nomatch e), fun _ e => (nomatch e)⟩, fun _ => rfl⟩

theorem chipSelectFall (p : PortId) : Statement (.chipSelectFall p) :=
  ⟨fun _ _ => nofun, fun _ => ⟨fun _ _ _ e => (nomatch e), fun _ e => (nomatch e)⟩, fun _ => rfl⟩

theorem poll (p : PortId) (rest : List Byte) : Statement (.poll p rest) :=
  ⟨fun _ _ => nofun, fun _ => ⟨fun _ _ _ e => (nomatch e), fun _ e => (nomatch e)⟩, fun _ => rfl⟩

theorem commandFrame (p : PortId) (rest : List Byte) : Statement (.commandFrame p rest) :=
  ⟨fun _ _ => nofun, fun _ => ⟨fun _ _ _ e => (nomatch e), fun _ e => (nomatch e)⟩, fun _ => rfl⟩

theorem invalidFrameType (p : PortId) (type : Byte) (rest : List Byte) : Statement (.invalidFrameType p type rest) :=
  ⟨fun _ _ => nofun, by
    constructor
    · intro h
      refine ⟨fun _ _ _ e => ?_, fun _ e => (by cases e)⟩
      cases e
      simpa [Instr.wellFormed, isFrameType] using h
    · intro h
      simpa [Instr.wellFormed, isFrameType] using h.1 p type rest rfl⟩

theorem responseFrame (p : PortId) : Statement (.responseFrame p) :=
  ⟨fun _ _ => nofun, fun _ => ⟨fun _ _ _ e => (nomatch e), fun _ e => (nomatch e)⟩, fun _ => rfl⟩

theorem releaseByte (p : PortId) (value : Byte) : Statement (.releaseByte p value) :=
  ⟨fun _ _ => nofun, fun _ => ⟨fun _ _ _ e => (nomatch e), fun _ e => (nomatch e)⟩, fun _ => rfl⟩

theorem dataOut (p : PortId) (rest : List Byte) : Statement (.dataOut p rest) :=
  ⟨fun _ _ => nofun, fun _ => ⟨fun _ _ _ e => (nomatch e), fun _ e => (nomatch e)⟩, fun _ => rfl⟩

theorem dataIn (p : PortId) (chunk : Byte) (complement : Byte) : Statement (.dataIn p chunk complement) :=
  ⟨fun _ _ => nofun, fun _ => ⟨fun _ _ _ e => (nomatch e), fun _ e => (nomatch e)⟩, fun _ => rfl⟩

theorem portReset (p : PortId) (requestHanded : Bool) : Statement (.portReset p requestHanded) :=
  ⟨fun _ _ => nofun, fun _ => ⟨fun _ _ _ e => (nomatch e), fun _ e => (nomatch e)⟩, fun _ => rfl⟩

theorem prstRelease (p : PortId) : Statement (.prstRelease p) :=
  ⟨fun _ _ => nofun, fun _ => ⟨fun _ _ _ e => (nomatch e), fun _ e => (nomatch e)⟩, fun _ => rfl⟩

theorem deviceReset : Statement .deviceReset :=
  ⟨fun _ _ => nofun, fun _ => ⟨fun _ _ _ e => (nomatch e), fun _ e => (nomatch e)⟩, fun _ => rfl⟩

theorem powerOnReset : Statement .powerOnReset :=
  ⟨fun _ _ => nofun, fun _ => ⟨fun _ _ _ e => (nomatch e), fun _ e => (nomatch e)⟩, fun _ => rfl⟩

theorem deviceResetRelease (source : ResetSource) : Statement (.deviceResetRelease source) :=
  ⟨fun _ _ => nofun, fun _ => ⟨fun _ _ _ e => (nomatch e), fun _ e => (nomatch e)⟩, fun _ => rfl⟩

theorem poolInitialisationDone : Statement .poolInitialisationDone :=
  ⟨fun _ _ => nofun, fun _ => ⟨fun _ _ _ e => (nomatch e), fun _ e => (nomatch e)⟩, fun _ => rfl⟩

theorem tick : Statement .tick :=
  ⟨fun _ _ => nofun, fun _ => ⟨fun _ _ _ e => (nomatch e), fun _ e => (nomatch e)⟩, fun _ => rfl⟩

theorem periodExpiry (p : PortId) : Statement (.periodExpiry p) :=
  ⟨fun _ _ => nofun, fun _ => ⟨fun _ _ _ e => (nomatch e), fun _ e => (nomatch e)⟩, fun _ => rfl⟩

theorem pauseExpiry (p : PortId) : Statement (.pauseExpiry p) :=
  ⟨fun _ _ => nofun, fun _ => ⟨fun _ _ _ e => (nomatch e), fun _ e => (nomatch e)⟩, fun _ => rfl⟩

theorem expiryTimerFire (r : RecId) : Statement (.expiryTimerFire r) :=
  ⟨fun _ _ => nofun, fun _ => ⟨fun _ _ _ e => (nomatch e), fun _ e => (nomatch e)⟩, fun _ => rfl⟩

theorem expiryNotice (n : ExpiryNotice) : Statement (.expiryNotice n) :=
  ⟨fun _ _ => nofun, by
    constructor
    · intro h
      refine ⟨fun _ _ _ e => (by cases e), fun _ e => ?_⟩
      cases e
      simpa [Instr.wellFormed] using h
    · intro h
      simpa [Instr.wellFormed] using h.2 n rfl⟩

theorem release (p : PortId) : Statement (.release p) :=
  ⟨fun _ _ => nofun, fun _ => ⟨fun _ _ _ e => (nomatch e), fun _ e => (nomatch e)⟩, fun _ => rfl⟩

theorem abortRequest (p : PortId) : Statement (.abortRequest p) :=
  ⟨fun _ _ => nofun, fun _ => ⟨fun _ _ _ e => (nomatch e), fun _ e => (nomatch e)⟩, fun _ => rfl⟩

theorem abandonmentRequest (p : PortId) : Statement (.abandonmentRequest p) :=
  ⟨fun _ _ => nofun, fun _ => ⟨fun _ _ _ e => (nomatch e), fun _ e => (nomatch e)⟩, fun _ => rfl⟩

theorem attachNotice (p : PortId) : Statement (.attachNotice p) :=
  ⟨fun _ _ => nofun, fun _ => ⟨fun _ _ _ e => (nomatch e), fun _ e => (nomatch e)⟩, fun _ => rfl⟩

theorem pauseNotice (p : PortId) : Statement (.pauseNotice p) :=
  ⟨fun _ _ => nofun, fun _ => ⟨fun _ _ _ e => (nomatch e), fun _ e => (nomatch e)⟩, fun _ => rfl⟩

theorem resumeNotice (p : PortId) : Statement (.resumeNotice p) :=
  ⟨fun _ _ => nofun, fun _ => ⟨fun _ _ _ e => (nomatch e), fun _ e => (nomatch e)⟩, fun _ => rfl⟩

theorem lapseNotice (p : PortId) : Statement (.lapseNotice p) :=
  ⟨fun _ _ => nofun, fun _ => ⟨fun _ _ _ e => (nomatch e), fun _ e => (nomatch e)⟩, fun _ => rfl⟩

theorem detachNotice (p : PortId) : Statement (.detachNotice p) :=
  ⟨fun _ _ => nofun, fun _ => ⟨fun _ _ _ e => (nomatch e), fun _ e => (nomatch e)⟩, fun _ => rfl⟩

theorem resetNotice (p : PortId) : Statement (.resetNotice p) :=
  ⟨fun _ _ => nofun, fun _ => ⟨fun _ _ _ e => (nomatch e), fun _ e => (nomatch e)⟩, fun _ => rfl⟩

theorem answerReturnAfterReset (p : PortId) : Statement (.answerReturnAfterReset p) :=
  ⟨fun _ _ => nofun, fun _ => ⟨fun _ _ _ e => (nomatch e), fun _ e => (nomatch e)⟩, fun _ => rfl⟩

theorem drainComplete (ch : ChanId) : Statement (.drainComplete ch) :=
  ⟨fun _ _ => nofun, fun _ => ⟨fun _ _ _ e => (nomatch e), fun _ e => (nomatch e)⟩, fun _ => rfl⟩

theorem chipSelectRise (p : PortId) (dataInCut : DataInCut) : Statement (.chipSelectRise p dataInCut) :=
  ⟨fun _ _ => nofun, fun _ => ⟨fun _ _ _ e => (nomatch e), fun _ e => (nomatch e)⟩, fun _ => rfl⟩

end Sys2Proof.Laws.Rows
end

