-- ==== Sys2Proof/Laws/Records.lean ====
section
/-! SUPPORT. Port sets, and the store's requests (chapter 1) in the cases in which they are granted. -/

namespace Sys2Proof.Machine

/-! ## Port sets -/

theorem inSet_insertPort (ps : PortSet) (p q : PortId) : inSet (insertPort ps p) q = (inSet ps q || q == p) := by
  revert ps p q
  decide

theorem inSet_erasePort (ps : PortSet) (p q : PortId) : inSet (erasePort ps p) q = (inSet ps q && q != p) := by
  revert ps p q
  decide

/-- A set is empty when no port is in it. -/
theorem eq_zero_of_inSet (ps : PortSet) (h : ∀ p, inSet ps p = false) : ps = 0 := by
  revert ps
  decide

/-- The set of the ports that satisfy a condition. -/
theorem inSet_portsWhere (f : PortId → Bool) (p : PortId) : inSet (portsWhere f) p = f p := by
  have h : ∀ a b c d : Bool, ∀ p : PortId,
      inSet ((if d then insertPort (if c then insertPort (if b then insertPort (if a then insertPort 0 0 else 0) 1
        else (if a then insertPort 0 0 else 0)) 2 else (if b then insertPort (if a then insertPort 0 0 else 0) 1
        else (if a then insertPort 0 0 else 0))) 3 else (if c then insertPort (if b then insertPort (if a then insertPort 0 0 else 0) 1
        else (if a then insertPort 0 0 else 0)) 2 else (if b then insertPort (if a then insertPort 0 0 else 0) 1
        else (if a then insertPort 0 0 else 0))))) p
      = (match p with | 0 => a | 1 => b | 2 => c | 3 => d) := by decide
  have := h (f 0) (f 1) (f 2) (f 3) p
  simp only [portsWhere, allPorts, List.finRange, List.ofFn, Fin.foldr, Fin.foldr.loop, List.foldl] at *
  refine this.trans ?_
  match p with
  | 0 => rfl
  | 1 => rfl
  | 2 => rfl
  | 3 => rfl

theorem mem_members (ps : PortSet) (p : PortId) : p ∈ members ps ↔ inSet ps p = true := by
  simp [members, allPorts, List.mem_filter]

/-! ## Records and blocks -/

/-- The lowest FREE record (R5). -/
theorem Store.lowestFree_eq (st : Store) (r : RecId) (h : (st.record r).state = .free)
    (hl : ∀ o, o < r → (st.record o).state ≠ .free) : st.lowestFree = some r := by
  unfold Store.lowestFree allRecords
  rw [List.find?_eq_some_iff_getElem]
  refine ⟨by simp [h], r.val, by simp, by simp, ?_⟩
  intro j hj
  have hj' : j < 256 := Nat.lt_trans hj r.isLt
  have := hl ⟨j, hj'⟩ hj
  simpa using this

/-- No record is FREE. -/
theorem Store.lowestFree_none (st : Store) (h : ∀ r, (st.record r).state ≠ .free) : st.lowestFree = none := by
  unfold Store.lowestFree
  rw [List.find?_eq_none]
  intro r _
  simpa using h r

/-- An allocation that is granted (R3, R5). -/
theorem Store.allocate_ok (st : Store) (a : Allocation) (r : RecId) (hr : st.lowestFree = some r)
    (hb : blocksFor a.length ≤ st.free.length) :
    st.allocate a = .ok (r, { st.setRecord r
      { state := .filling, channel := some a.channel, origin := some a.origin, form := some a.form, length := a.length,
        chain := st.free.take (blocksFor a.length), tag := a.tag, ttl := a.ttl } with
      free := st.free.drop (blocksFor a.length) }) := by
  simp [Store.allocate, hr, hb]

/-- A freed record is as after reset, and its chain joins the tail of the free block list (R4). -/
theorem Store.freeRecord_record (st : Store) (r o : RecId) :
    (st.freeRecord r).record o = if o = r then {} else st.record o := by
  show (st.setRecord r {}).record o = _
  exact Store.setRecord_record st r o {}

theorem Store.freeRecord_free (st : Store) (r : RecId) : (st.freeRecord r).free = st.free ++ (st.record r).chain := rfl

/-- An abort that is granted (R10). -/
theorem Store.abort_ok (st : Store) (r : RecId) (h : (st.record r).state = .filling) :
    st.abort r = .ok ((st.record r).chain.length, st.freeRecord r) := by
  simp [Store.abort, h]

/-- An abort of a record in any other state is refused with ORDER (R10). -/
theorem Store.abort_error (st : Store) (r : RecId) (h : (st.record r).state ≠ .filling) : st.abort r = .error .order := by
  simp [Store.abort, h]

/-- A retirement of a record that no port holds (R11). -/
theorem Store.retire_freed (st : Store) (r : RecId) (h : (st.record r).state = .sealed) (hh : (st.record r).holders = 0) :
    st.retire r = .ok (.freed (st.record r).chain.length, st.freeRecord r) := by
  simp [Store.retire, h, hh]

/-- A retirement of a held record (R11). -/
theorem Store.retire_withdrawn (st : Store) (r : RecId) (h : (st.record r).state = .sealed)
    (hh : (st.record r).holders ≠ 0) :
    st.retire r = .ok (.withdrawn (st.record r).holders, st.setRecord r { st.record r with state := .withdrawn }) := by
  unfold Store.retire
  simp only [h, ne_eq, not_true_eq_false, if_false]
  rw [if_neg hh]

/-- A retirement of a record in any other state is refused with ORDER (R11). -/
theorem Store.retire_error (st : Store) (r : RecId) (h : (st.record r).state ≠ .sealed) : st.retire r = .error .order := by
  simp [Store.retire, h]

/-- A hold that is placed (R14). -/
theorem Store.hold_ok (st : Store) (r : RecId) (p : PortId) (h : (st.record r).state = .sealed)
    (hh : inSet (st.record r).holders p = false) :
    st.hold r p = .ok (st.setRecord r { st.record r with holders := insertPort (st.record r).holders p }) := by
  simp [Store.hold, h, hh]

/-- A seal that is granted (R9). -/
theorem Store.sealRecord_ok (st : Store) (now : TickCount) (r : RecId) (seq : Half) (h : (st.record r).state = .filling)
    (hl : (st.record r).form = some .openEnded → (st.record r).length ≠ 0) :
    st.sealRecord now r seq = .ok (st.setRecord r { st.record r with
      state := .sealed, sequence := some seq
      deadline := (st.record r).ttl.map fun t => now + BitVec.ofNat 32 t }) := by
  unfold Store.sealRecord
  simp only [h, ne_eq, not_true_eq_false, if_false]
  rw [if_neg]
  intro hc
  exact hl hc.1 hc.2

/-- A change of the table's fields on a SEALED record (R8). -/
theorem Store.setFields_ok (st : Store) (r : RecId) (f : Record → Record) (h : (st.record r).state = .sealed) :
    st.setFields r f = .ok (st.setRecord r (f (st.record r))) := by
  simp [Store.setFields, h]

/-- A change of the table's fields on a record in any other state is refused with ORDER (R8, R12). -/
theorem Store.setFields_error (st : Store) (r : RecId) (f : Record → Record) (h : (st.record r).state ≠ .sealed) :
    st.setFields r f = .error .order := by
  simp [Store.setFields, h]

/-! ## Expiry timers -/

/-- A timer that fires sets its record's fired flag and sends one notice (R21). -/
theorem Store.fireTimer_eq (st : Store) (r : RecId) (ch : ChanId) (seq : Half) (h : (st.record r).channel = some ch)
    (hs : (st.record r).sequence = some seq) :
    st.fireTimer r = { st.setRecord r { st.record r with fired := true } with notices := st.notices ++ [⟨r, ch, seq⟩] } := by
  simp [Store.fireTimer, h, hs]

/-- A timer that fires changes no byte, no check code and no block (R21). -/
theorem Store.fireTimer_kept (st : Store) (r : RecId) :
    (st.fireTimer r).pool = st.pool ∧ (st.fireTimer r).codes = st.codes ∧ (st.fireTimer r).free = st.free := by
  unfold Store.fireTimer
  simp only
  split <;> exact ⟨rfl, rfl, rfl⟩

/-- A timer that fires changes no other record. -/
theorem Store.fireTimer_record_ne (st : Store) {r o : RecId} (h : o ≠ r) : (st.fireTimer r).record o = st.record o := by
  unfold Store.fireTimer
  simp only
  split
  · show (st.setRecord r _).record o = _
    rw [Store.setRecord_record, if_neg h]
  · rfl

/-- A write keeps the pool's canonical form (R17). -/
theorem Store.write_wf {st st' : Store} {p : PortId} {r : RecId} {offset : Nat} {bytes : List Byte}
    (hw : st.pool.wf = true) (h : st.write p r offset bytes = .ok st') : st'.pool.wf = true := by
  unfold Store.write at h
  simp only at h
  split at h
  · cases h
  · split at h
    · cases h
    · cases h
      exact writePayload_wf _ _ _ _ hw

/-- A read changes no byte of the pool and at most the record's damaged flag (R18). -/
theorem Store.read_kept {st st' : Store} {r : RecId} {offset count : Nat} {x : List Byte × Bool}
    (h : st.read r offset count = .ok (x, st')) :
    st'.pool = st.pool ∧ st'.free = st.free ∧ st' = st.setRecord r { st.record r with damaged := x.2 } := by
  unfold Store.read at h
  simp only at h
  split at h
  · cases h; exact ⟨rfl, rfl, rfl⟩
  · cases h

end Sys2Proof.Machine
end

