-- ==== Sys2Proof/Tests/Slice0.lean ====
section
/-! SUPPORT. Tests: the well-formedness checks refuse an ill-formed command; the manual's own figures; one small step of
several families; and for every statement with hypotheses a concrete state and operands that meet them all. -/

open Sys2Proof Sys2Proof.Machine

namespace Sys2Proof.Tests

-- One theorem after another: the proofs below would else each claim a thread of their own.
set_option Elab.async false

/-! ## Well-formedness and the table's words -/

/-- A frame of no type cannot carry one of the five type codes. -/
theorem test_wellFormed_refuses_frameType : (Instr.invalidFrameType 0 4 []).wellFormed = false := rfl

theorem test_wellFormed_takes_otherType : (Instr.invalidFrameType 0 5 []).wellFormed = true := rfl

/-- An expiry notice cannot name sequence 0. -/
theorem test_wellFormed_refuses_sequence0 : (Instr.expiryNotice ⟨0, 0, 0⟩).wellFormed = false := rfl

/-- The table gives no row any bits. -/
theorem test_no_word_spells_a_command : decodeTableWord 8 0x10 = none := rfl

/-! ## The manual's figures -/

/-- The check value of the CRC (R160): the nine characters 123456789. -/
theorem test_crc_checkValue : crc16 [0x31, 0x32, 0x33, 0x34, 0x35, 0x36, 0x37, 0x38, 0x39] = 0xAEE7 := by decide +kernel

/-- A CHECKIN as a port master sends it is taken by the link (R161, R167). -/
theorem test_commandFrame_checkin :
    parseCommandFrame (commandFrameBytes 5 0x12 []) = some ⟨5, 0x12, [], false⟩ := by decide +kernel

/-- A frame with one bit turned fails the check (R161). -/
theorem test_commandFrame_badCrc :
    parseCommandFrame ([6] ++ (commandFrameBytes 5 0x12 []).drop 1) = none := by decide +kernel

/-- A code outside the 29, or a parameter length that the code does not allow, marks the command malformed (R162). -/
theorem test_commandFrame_malformed :
    parseCommandFrame (commandFrameBytes 5 0x99 []) = some ⟨5, 0x99, [], true⟩
      ∧ parseCommandFrame (commandFrameBytes 5 0x12 [0]) = some ⟨5, 0x12, [0], true⟩ := by decide +kernel

/-- The sequence after 65535 is 1 (R94). -/
theorem test_nextSequence_wraps : nextSequence 65535 = 1 ∧ nextSequence 65534 = 65535 := by decide

/-- A payload of 64 bytes takes one block, of 65 two, of 4096 sixty-four (R1). -/
theorem test_blocksFor : blocksFor 0 = 0 ∧ blocksFor 64 = 1 ∧ blocksFor 65 = 2 ∧ blocksFor 4096 = 64 := by decide

/-- A name is 8 printable characters, not all spaces (R28). -/
theorem test_names : nameAcceptable (List.replicate 8 0x20) = false ∧ nameAcceptable (0x1F :: List.replicate 7 0x41) = false
    ∧ nameAcceptable (0x7E :: List.replicate 7 0x20) = true := by decide

/-! ## A state to test on -/

/-- A PRESENT port with every event kind enabled. -/
def presentPort : PortState :=
  { record := { state := .present, period := some 10, debt := 0, periodTimer := some 10, enables := 0xFFF,
                attnEnable := true } }

/-- A name of eight characters that ends in the one given. -/
def named (b : Byte) : List Byte := List.replicate 7 0x41 ++ [b]

/-- A SEALED record of three bytes. -/
def sealedRec (ch : ChanId) (o : PortId) (seq : Half) (b : BlockId) : Record :=
  { state := .sealed, channel := some ch, origin := some o, form := some .counted, sequence := some seq, length := 3,
    chain := [b] }

/-- A FILLING record of three bytes, its origin P0. -/
def fillingRec (ch : ChanId) (f : Form) (b : BlockId) : Record :=
  { state := .filling, channel := some ch, origin := some 0, form := some f, length := 3, chain := [b] }

/-- An ACTIVE subscription. -/
def fanSub (m : ReqMode) (e : EffMode) (limit : Nat) (n : Notify) : Option Sub :=
  some { suspended := false, fan := some ⟨m, e, limit⟩, notify := n }

/-- An OPEN channel. -/
def openChan (b : Byte) (k : Kind) (depth : Nat) : Channel :=
  { state := .opened, name := some (named b), kind := some k, depth := depth, quota := 8, posters := 15, admins := 15 }

/-- C0: a FANOUT channel at its depth, its oldest message listing P1 only. -/
def chan0 : Channel :=
  { openChan 0x41 .fanout 2 with
    admins := 1, log := [0, 1], blocksInUse := 2, nextSeq := 3, posted := 2
    subs := #v[fanSub .blocking .blocking 2 .each, fanSub .lossy .lossy 2 .edge, none, none] }

/-- C1: a QUEUE channel with a claimed and an unclaimed message, two reservations and a withdrawn record. -/
def chan1 : Channel :=
  { openChan 0x42 .queue 8 with log := [2, 3], reserved := 2, withdrawn := 1, blocksInUse := 5, nextSeq := 3, posted := 2 }

/-- C2: a LATEST channel with a value and a reservation. -/
def chan2 : Channel :=
  { openChan 0x43 .latest 1 with
    log := [4], reserved := 1, blocksInUse := 2, nextSeq := 2, posted := 1
    subs := #v[some { suspended := false, fan := none, notify := .each }, none, none, none] }

/-- C4: a FANOUT channel with two subscribers, one reservation and no message. -/
def chan4 : Channel :=
  { openChan 0x44 .fanout 4 with
    reserved := 1, blocksInUse := 1
    subs := #v[fanSub .blocking .blocking 2 .each, fanSub .lossy .lossy 1 .edge, none, none] }

/-- C5: a FANOUT channel with two reservations and no subscriber. -/
def chan5 : Channel := { openChan 0x45 .fanout 4 with reserved := 2, blocksInUse := 2 }

/-- C6: a FANOUT channel with a message that lists P1 and is held by P0. -/
def chan6 : Channel :=
  { openChan 0x46 .fanout 4 with
    log := [11], blocksInUse := 1, nextSeq := 2, posted := 1
    subs := #v[none, fanSub .lossy .lossy 2 .edge, none, none] }

/-- C7: a FANOUT channel at its depth, its message listing P1. -/
def chan7 : Channel :=
  { openChan 0x47 .fanout 1 with
    log := [14], blocksInUse := 1, nextSeq := 2, posted := 1
    subs := #v[none, fanSub .lossy .lossy 2 .edge, none, none] }

/-- The records in use: all below 15 but record 13. -/
def someRecords : List (RecId × Record) :=
  [(0, { sealedRec 0 0 1 0 with pending := some 2 }), (1, { sealedRec 0 0 2 1 with pending := some 3, holders := 2 }),
   (2, { sealedRec 1 0 1 2 with claimant := some 1, holders := 2, redeliveries := 2 }), (3, sealedRec 1 0 2 3),
   (4, { sealedRec 2 0 1 4 with holders := 1 }), (5, fillingRec 1 .counted 5), (6, fillingRec 1 .openEnded 6),
   (7, fillingRec 4 .openEnded 7), (8, fillingRec 2 .openEnded 8), (9, fillingRec 5 .openEnded 9),
   (10, fillingRec 5 .counted 10), (11, { sealedRec 6 2 1 11 with pending := some 2, holders := 1 }),
   (12, { sealedRec 1 2 7 12 with state := .withdrawn, holders := 1 }),
   (14, { sealedRec 7 0 1 13 with pending := some 2 })]

/-- A part at work: four PRESENT ports, seven channels, fourteen records. -/
def busyPart : State where
  store := { pool := [(0, 9)], codes := [], free := (List.finRange 512).drop 14, notices := []
             recs := someRecords.foldl (fun v e => v.set e.1 e.2) (Vector.replicate 256 {}) }
  table := { chans := [(0, chan0), (1, chan1), (2, chan2), (4, chan4), (5, chan5), (6, chan6), (7, chan7)].foldl
               (fun v (e : ChanId × Channel) => v.set e.1 e.2) (Vector.replicate 16 {})
             marks := Vector.replicate 4 .present }
  ports := Vector.replicate 4 presentPort
  tick := 0
  phase := .ready
  resetLow := false
  powerHold := false
  pending := []

/-- The part with a change at a port. -/
def at_ (p : PortId) (f : PortState → PortState) : State := busyPart.modPort p f

/-- A command as its queue entry. -/
def cmd (code : Byte) (params : List Byte) : Command := ⟨7, code, params, false⟩

/-- The part with a command at the head of a port's queue. -/
def give (p : PortId) (code : Byte) (params : List Byte) : State :=
  at_ p fun q => { q with link := { q.link with commands := [cmd code params] } }

/-- The same with the port in another state. -/
def giveIn (st : Presence) (p : PortId) (code : Byte) (params : List Byte) : State :=
  (give p code params).modPort p fun q => { q with record := { q.record with state := st } }

/-- The part with a command at a port whose stream context is given. -/
def giveStream (p : PortId) (x : Stream) (code : Byte) (params : List Byte) : State :=
  (give p code params).modPort p fun q => { q with stream := x }

/-- The part with a message on a port's path to the table. -/
def sent (p : PortId) (m : TableMsg) : State := at_ p fun q => { q with toTable := [m] }

/-- The part with a transaction begun at a port whose stream context is given. -/
def begunAt (p : PortId) (x : Stream) : State :=
  at_ p fun q => { q with stream := x, csLow := true, link := { q.link with transaction := .begun } }

/-- The part with a record of its store replaced. -/
def withRec (r : RecId) (x : Record) (s : State) : State := s.setStore (s.store.setRecord r x)

/-- A stream write at work. -/
def writing (r : RecId) (ch : ChanId) (f : Form) (n : Nat) (left : Option Nat) : Stream :=
  { state := .writing, direction := some .write, mode := some f, channel := some ch, record := some r, byteCount := n,
    remaining := left, expected := 5 }

/-- A stream read at work. -/
def reading (st : StreamState) (r : RecId) (ch : ChanId) (consume : Bool) (n left last : Nat) : Stream :=
  { state := st, direction := some .read, mode := some .counted, channel := some ch, record := some r, byteCount := n,
    remaining := some left, lastLength := last, expected := 5, consume := consume }

theorem busyPart_records : ∀ r, recordFits (busyPart.record r) := by unfold recordFits; decide +kernel

theorem busyPart_channels : ∀ ch, channelFits busyPart ch := by unfold channelFits; decide +kernel

theorem test_busyPart_tableLaw : tableLaw busyPart := ⟨busyPart_records, busyPart_channels⟩

/-- A state with the same store and table obeys the table law as well. -/
theorem table_of_same {s t : State} (h : tableLaw s) (h1 : t.store = s.store) (h2 : t.table = s.table) : tableLaw t := by
  cases s; cases t; subst h1; subst h2; exact h

theorem busy_table {t : State} (h1 : t.store = busyPart.store) (h2 : t.table = busyPart.table) : tableLaw t :=
  table_of_same test_busyPart_tableLaw h1 h2

theorem test_busyPart_depthLaw : depthLaw busyPart := by unfold depthLaw; decide +kernel

theorem busy_depth {t : State} (h : t.table = busyPart.table) : depthLaw t := by
  cases t; subst h; exact test_busyPart_depthLaw

theorem busy_pool {t : State} (h : t.store = busyPart.store) : poolLaw t := by
  unfold poolLaw; rw [h]; decide

/-- A record that agrees with its state in state, channel and chain with the one it replaces keeps the table law. -/
theorem table_withRec {s : State} (r : RecId) (x : Record) (h : tableLaw s) (hx : recordFits x)
    (h1 : (s.record r).state = x.state) (h2 : (s.record r).channel = x.channel) (h3 : (s.record r).chain = x.chain) :
    tableLaw (withRec r x s) := by
  have he : ∀ o, ((withRec r x s).record o).state = (s.record o).state
      ∧ ((withRec r x s).record o).channel = (s.record o).channel
      ∧ ((withRec r x s).record o).chain = (s.record o).chain := by
    intro o
    by_cases ho : o = r
    · subst ho; simp [withRec, h1, h2, h3]
    · exact ⟨by simp [withRec, ho, State.record], by simp [withRec, ho, State.record], by simp [withRec, ho, State.record]⟩
  refine ⟨fun o => ?_, fun ch => ?_⟩
  · by_cases ho : o = r
    · subst ho; simpa [withRec] using hx
    · simpa [withRec, ho, State.record] using h.1 o
  · have := h.2 ch
    simpa only [channelFits, namedIn, chainBlocks, he, show (withRec r x s).chan ch = s.chan ch from rfl] using this

/-- A channel in use that begins to drain keeps the table law. -/
theorem table_draining {s : State} (ch : ChanId) (h : tableLaw s) (hs : (s.chan ch).state ≠ .unused) :
    tableLaw (s.setChan ch { s.chan ch with state := .draining }) := by
  refine ⟨h.1, fun d => ?_⟩
  have := h.2 d
  by_cases hd : d = ch
  · subst hd
    obtain ⟨k1, k2, k3, k4, k5, k6, _⟩ := this
    exact ⟨by simpa using k1, by simpa using k2, by simpa [namedIn] using k3, by simpa [namedIn] using k4,
      by simpa [chainBlocks] using k5, by simpa using k6, by simp⟩
  · simpa [channelFits, namedIn, chainBlocks, hd] using this

/-- A channel that begins to drain keeps the depth law. -/
theorem depth_draining {s : State} (ch : ChanId) (h : depthLaw s) :
    depthLaw (s.setChan ch { s.chan ch with state := .draining }) := by
  intro d
  by_cases hd : d = ch
  · subst hd; simpa using h d
  · simpa [hd] using h d

/-- A record does not enter the depth law by its fields. -/
theorem depth_withRec {s : State} (r : RecId) (x : Record) (h : depthLaw s) : depthLaw (withRec r x s) := h

/-- The limits of the subscriptions are at least 1. -/
theorem busy_limits (t : State) (h : t.table = busyPart.table) (ch : ChanId) :
    ∀ q f, (t.chan ch).fanSub q = some f → 1 ≤ f.limit := by
  have hb : ∀ ch q, ((busyPart.chan ch).fanSub q).all (fun f => decide (1 ≤ f.limit)) = true := by decide +kernel
  intro q f hf
  have := hb ch q
  rw [show busyPart.chan ch = t.chan ch from by unfold State.chan; rw [h], hf] at this
  simpa using this

/-- A decidable property of an option's value, from its check. -/
theorem of_all_some {α : Type} {o : Option α} {P : α → Prop} [DecidablePred P]
    (h : (o.all fun a => decide (P a)) = true) : ∀ a, o = some a → P a := by
  intro a ha
  subst ha
  simpa using h

/-- A value of an option that has a decidable property, from the check. -/
theorem of_any_some {α : Type} {o : Option α} {P : α → Prop} [DecidablePred P]
    (h : (o.any fun a => decide (P a)) = true) : ∃ a, o = some a ∧ P a := by
  cases o with
  | none => simp at h
  | some a => exact ⟨a, rfl, by simpa using h⟩

/-- A decidable property of every entry of a list, from its check. -/
theorem of_all {α : Type} {l : List α} {P : α → Prop} [DecidablePred P]
    (h : (l.all fun a => decide (P a)) = true) : ∀ a ∈ l, P a := by
  simpa [List.all_eq_true] using h

/-- The value of an admission, from its check. -/
theorem of_admitted {x : Except Status Admitted} {v : Admitted}
    (h : (match x with | .ok w => decide (w = v) | .error _ => false) = true) : x = .ok v := by
  cases x with
  | ok w => simpa using h
  | error e => simp at h

/-- The refusal of an admission, from its check. -/
theorem of_refused {x : Except Status Admitted} {st : Status}
    (h : (match x with | .ok _ => false | .error e => decide (e = st)) = true) : x = .error st := by
  cases x with
  | ok w => simp at h
  | error e => simpa using h

/-- Every subscription of a FANOUT channel has its limit, and the port's lag is within it. -/
def subsFit (s : State) (ch : ChanId) : Bool :=
  (List.finRange 4).all fun q => ((s.chan ch).sub q).all fun sub =>
    sub.fan.any fun f => decide (1 ≤ f.limit ∧ lag s ch q ≤ f.limit)

theorem subs_fit {s : State} {ch : ChanId} (h : subsFit s ch = true) : ∀ q sub, (s.chan ch).sub q = some sub →
    ∃ f, sub.fan = some f ∧ 1 ≤ f.limit ∧ lag s ch q ≤ f.limit := fun q sub hs =>
  of_any_some (of_all_some (P := fun sub => (sub.fan.any fun f => decide (1 ≤ f.limit ∧ lag s ch q ≤ f.limit)) = true)
    (by simpa using (List.all_eq_true.mp h) q (List.mem_finRange q)) sub hs)

theorem entries_fit {s : State} {es : List (RecId × ChanId)}
    (h : (es.all fun e => decide ((s.chan e.2).kind = some .fanout → subsFit s e.2 = true)) = true) :
    ∀ e ∈ es, ∀ q sub, (s.chan e.2).kind = some .fanout → (s.chan e.2).sub q = some sub →
      ∃ f, sub.fan = some f ∧ 1 ≤ f.limit ∧ lag s e.2 q ≤ f.limit := fun e he q sub hk hs =>
  subs_fit (of_all h e he hk) q sub hs

/-! ## Small steps -/

/-- CHECKIN at debt -8 keeps the debt and answers CREDIT_FULL (R140). -/
theorem test_checkin_creditFull :
    (takeCommand 0 (rowOf 0x12) parseNone noCheck (checkinAct 0)
      ((give 0 0x12 []).modPort 0 fun q => { q with record := { q.record with debt := -8 } })).port 0 =
      { presentPort with
        record := { presentPort.record with debt := -8 }
        link := { responses := [⟨7, 0x12, .ok, [0xF8, 1]⟩] } } := by decide +kernel

/-- An abort frees the record and its block joins the tail of the free block list (R10, R4). -/
theorem test_abort_frees : (abortRequest 0 (sent 0 (.abort 5 1))).record 5 = {}
    ∧ (abortRequest 0 (sent 0 (.abort 5 1))).store.free.getLast? = some 5
    ∧ ((abortRequest 0 (sent 0 (.abort 5 1))).chan 1).reserved = 1 := by decide +kernel

/-- A tick counts a PRESENT port's period timer (R138). -/
theorem test_tick_counts : ((tick busyPart).port 2).record.periodTimer = some 9 ∧ (tick busyPart).tick = 1 := by
  decide +kernel

/-! ## Witnesses: each statement's hypotheses hold of a concrete state and operands -/


/-- The hypotheses of StepRunsFrontCommand. -/
def hypStepRunsFrontCommand (s : State) (c : Instr) (rest : List Instr) : Prop :=
  s.pending = c :: rest

theorem test_witness_StepRunsFrontCommand :
    hypStepRunsFrontCommand { busyPart with pending := [.tick] } .tick [] := by
  unfold hypStepRunsFrontCommand; decide +kernel

/-- The hypotheses of DeviceResetSetsResetValues. -/
def hypDeviceResetSetsResetValues (_s : State) (i : Instr) : Prop :=
  (i = .deviceReset ∨ i = .powerOnReset)

theorem test_witness_DeviceResetSetsResetValues :
    hypDeviceResetSetsResetValues busyPart .deviceReset
    ∧ hypDeviceResetSetsResetValues busyPart .powerOnReset := by
  refine ⟨?_, ?_⟩
  all_goals
    unfold hypDeviceResetSetsResetValues; decide +kernel

/-- The hypotheses of LaterReleaseBeginsInitialisation. -/
def hypLaterReleaseBeginsInitialisation (s : State) (_source : ResetSource) : Prop :=
  s.phase = .held

theorem test_witness_LaterReleaseBeginsInitialisation :
    hypLaterReleaseBeginsInitialisation State.reset .powerDetector
    ∧ hypLaterReleaseBeginsInitialisation { State.reset with resetLow := true } .powerDetector
    ∧ hypLaterReleaseBeginsInitialisation { State.reset with resetLow := true, powerHold := false } .resetPin := by
  refine ⟨?_, ?_, ?_⟩
  all_goals
    unfold hypLaterReleaseBeginsInitialisation; decide +kernel

/-- The hypotheses of InitialisationRaisesReady. -/
def hypInitialisationRaisesReady (s : State) : Prop :=
  s.phase = .initialising

theorem test_witness_InitialisationRaisesReady :
    hypInitialisationRaisesReady { begunAt 0 {} with phase := .initialising } := by
  unfold hypInitialisationRaisesReady; decide +kernel

/-- The hypotheses of TickCountsTimers. -/
def hypTickCountsTimers (s : State) : Prop :=
  s.phase ≠ .held ∧ (∀ r, expiryDue s.tick (s.record r) → (s.record r).channel.isSome = true ∧ (s.record
    r).sequence.isSome = true)

theorem test_witness_TickCountsTimers :
    hypTickCountsTimers busyPart
    ∧ hypTickCountsTimers
        { withRec 3 { sealedRec 1 0 2 3 with deadline := some 4294967295 } busyPart with phase := .initialising, tick := 4294967295 } := by
  refine ⟨?_, ?_⟩
  all_goals
    refine ⟨?_, by unfold expiryDue; decide +kernel⟩ <;> decide +kernel

/-- The hypotheses of StateRefusesCommand. -/
def hypStateRefusesCommand (s : State) (p : PortId) (c : Command) (i : Instr) (st : Status) : Prop :=
  takesNext s p c ∧ rowFor p c = some i ∧ (((s.port p).record.state = .detached ∧ st = .detached ∧ c.code ≠ 0x10 ∧
    c.code ≠ 0x15) ∨ ((s.port p).record.state = .paused ∧ st = .paused ∧ c.code ≠ 0x14 ∧ c.code ≠ 0x17 ∧ c.code ≠
    0x15) ∨ ((s.port p).record.state = .lapsed ∧ st = .lapsed ∧ c.code ≠ 0x10 ∧ c.code ≠ 0x17 ∧ c.code ≠ 0x15))

theorem test_witness_StateRefusesCommand :
    hypStateRefusesCommand (giveIn .detached 0 0x40 [1, 0, 0, 0, 0, 0, 9]) 0 (cmd 0x40 [1, 0, 0, 0, 0, 0, 9]) (.post
        0) .detached
    ∧ hypStateRefusesCommand (giveIn .paused 0 0x12 []) 0 (cmd 0x12 []) (.checkin 0) .paused
    ∧ hypStateRefusesCommand (giveIn .lapsed 3 0x14 []) 3 (cmd 0x14 []) (.resume 3) .lapsed
    ∧ hypStateRefusesCommand ((giveIn .detached 0 0x40 [1, 0, 0, 0, 0, 0, 9]).modPort 0 fun q =>
        { q with toTable := [.request (.command (cmd 0x40 [1, 0, 0, 0, 0, 0, 9])), .resetNotice] }) 0 (cmd 0x40
        [1, 0, 0, 0, 0, 0, 9]) (.post 0) .detached := by
  refine ⟨?_, ?_, ?_, ?_⟩
  all_goals
    refine ⟨by unfold takesNext; decide +kernel, ?_, ?_⟩ <;> decide +kernel

/-- The hypotheses of OutOfRangeParameterIsLimit. -/
def hypOutOfRangeParameterIsLimit (s : State) (p : PortId) (c : Command) (i : Instr) : Prop :=
  takesNext s p c ∧ rowFor p c = some i ∧ inRange c = false ∧ ((s.port p).record.state = .present ∨ (c.code = 0x10 ∧
    ((s.port p).record.state = .detached ∨ (s.port p).record.state = .lapsed)))

theorem test_witness_OutOfRangeParameterIsLimit :
    hypOutOfRangeParameterIsLimit (give 0 0x13 [0, 0]) 0 (cmd 0x13 [0, 0]) (.pause 0)
    ∧ hypOutOfRangeParameterIsLimit (give 0 0x51 [16, 1]) 0 (cmd 0x51 [16, 1]) (.skip 0)
    ∧ hypOutOfRangeParameterIsLimit (give 0 0x22 [0, 2]) 0 (cmd 0x22 [0, 2]) (.close 0)
    ∧ hypOutOfRangeParameterIsLimit (giveIn .detached 0 0x10 [0, 0, 255, 15, 1]) 0 (cmd 0x10 [0, 0, 255, 15, 1])
        (.attach 0)
    ∧ hypOutOfRangeParameterIsLimit (giveIn .lapsed 0 0x10 [233, 3, 255, 15, 1]) 0 (cmd 0x10 [233, 3, 255, 15, 1])
        (.attach 0) := by
  refine ⟨?_, ?_, ?_, ?_, ?_⟩
  all_goals
    refine ⟨by unfold takesNext; decide +kernel, ?_, ?_, ?_⟩ <;> decide +kernel

/-- The hypotheses of MalformedCommandAnswered. -/
def hypMalformedCommandAnswered (s : State) (p : PortId) (c : Command) : Prop :=
  s.phase = .ready ∧ (s.port p).busy = none ∧ (s.port p).link.commands.head? = some c ∧ c.malformed = true

theorem test_witness_MalformedCommandAnswered :
    hypMalformedCommandAnswered (at_ 1 fun q =>
        { q with link := { q.link with commands := [⟨7, 0x99, [], true⟩] } }) 1 ⟨7, 0x99, [], true⟩ := by
  refine ⟨?_, ?_, ?_, ?_⟩ <;> decide +kernel

/-- The hypotheses of AttachMakesPortPresent. -/
def hypAttachMakesPortPresent (s : State) (p : PortId) (c : Command) (a : AttachParams) : Prop :=
  takesNext s p c ∧ c.code = 0x10 ∧ parseAttach c.params = some a ∧ ((s.port p).record.state = .detached ∨ (s.port
    p).record.state = .lapsed)

theorem test_witness_AttachMakesPortPresent :
    hypAttachMakesPortPresent (giveIn .detached 0 0x10 [1, 0, 255, 15, 1]) 0 (cmd 0x10 [1, 0, 255, 15, 1]) ⟨1,
        0xFFF, true⟩
    ∧ hypAttachMakesPortPresent (giveIn .lapsed 2 0x10 [232, 3, 0, 0, 0]) 2 (cmd 0x10 [232, 3, 0, 0, 0]) ⟨1000, 0,
        false⟩ := by
  refine ⟨?_, ?_⟩
  all_goals
    refine ⟨by unfold takesNext; decide +kernel, ?_, ?_, ?_⟩ <;> decide +kernel

/-- The hypotheses of AttachFromPresentIsOrder. -/
def hypAttachFromPresentIsOrder (s : State) (p : PortId) (c : Command) : Prop :=
  takesNext s p c ∧ c.code = 0x10 ∧ inRange c = true ∧ (s.port p).record.state = .present

theorem test_witness_AttachFromPresentIsOrder :
    hypAttachFromPresentIsOrder (give 0 0x10 [1, 0, 255, 15, 1]) 0 (cmd 0x10 [1, 0, 255, 15, 1]) := by
  refine ⟨by unfold takesNext; decide +kernel, ?_, ?_, ?_⟩ <;> decide +kernel

/-- The hypotheses of CheckinPaysOneBack. -/
def hypCheckinPaysOneBack (s : State) (p : PortId) (c : Command) : Prop :=
  takesNext s p c ∧ c.code = 0x12 ∧ c.params = [] ∧ (s.port p).record.state = .present ∧ -8 ≤ (s.port p).record.debt

theorem test_witness_CheckinPaysOneBack :
    hypCheckinPaysOneBack (give 0 0x12 []) 0 (cmd 0x12 [])
    ∧ hypCheckinPaysOneBack ((give 0 0x12 []).modPort 0 fun q => { q with record := { q.record with debt := -8 } }) 0
        (cmd 0x12 []) := by
  refine ⟨?_, ?_⟩
  all_goals
    refine ⟨by unfold takesNext; decide +kernel, ?_, ?_, ?_, ?_⟩ <;> decide +kernel

/-- The hypotheses of PauseStopsPeriodTimer. -/
def hypPauseStopsPeriodTimer (s : State) (p : PortId) (c : Command) (limit : Nat) : Prop :=
  takesNext s p c ∧ c.code = 0x13 ∧ parsePause c.params = some limit ∧ (s.port p).record.state = .present ∧ (s.port
    p).record.checkinOwed = false

theorem test_witness_PauseStopsPeriodTimer :
    hypPauseStopsPeriodTimer (give 0 0x13 [1, 0]) 0 (cmd 0x13 [1, 0]) 1
    ∧ hypPauseStopsPeriodTimer (give 0 0x13 [96, 234]) 0 (cmd 0x13 [96, 234]) 60000 := by
  refine ⟨?_, ?_⟩
  all_goals
    refine ⟨by unfold takesNext; decide +kernel, ?_, ?_, ?_, ?_⟩ <;> decide +kernel

/-- The hypotheses of ResumeReloadsPeriodTimer. -/
def hypResumeReloadsPeriodTimer (s : State) (p : PortId) (c : Command) (left period : Nat) : Prop :=
  takesNext s p c ∧ c.code = 0x14 ∧ c.params = [] ∧ (s.port p).record.state = .paused ∧ (s.port p).record.pauseTimer
    = some left ∧ (s.port p).record.period = some period

theorem test_witness_ResumeReloadsPeriodTimer :
    hypResumeReloadsPeriodTimer ((giveIn .paused 0 0x14 []).modPort 0 fun q =>
        { q with record := { q.record with pauseTimer := some 0 } }) 0 (cmd 0x14 []) 0 10 := by
  refine ⟨by unfold takesNext; decide +kernel, ?_, ?_, ?_, ?_, ?_⟩ <;> decide +kernel

/-- The hypotheses of DetachEndsWorkInFlight. -/
def hypDetachEndsWorkInFlight (s : State) (p : PortId) (c : Command) : Prop :=
  takesNext s p c ∧ c.code = 0x11 ∧ c.params = [] ∧ (s.port p).record.state = .present

theorem test_witness_DetachEndsWorkInFlight :
    hypDetachEndsWorkInFlight (give 0 0x11 []) 0 (cmd 0x11 [])
    ∧ hypDetachEndsWorkInFlight (giveStream 1 (reading .reading 2 1 false 0 3 0) 0x11 []) 1 (cmd 0x11 []) := by
  refine ⟨?_, ?_⟩
  all_goals
    refine ⟨by unfold takesNext; decide +kernel, ?_, ?_, ?_⟩ <;> decide +kernel

/-- The hypotheses of PeriodExpiryRaisesDebt. -/
def hypPeriodExpiryRaisesDebt (s : State) (p : PortId) (left : Int) (period : Nat) : Prop :=
  s.phase = .ready ∧ (s.port p).busy = none ∧ (s.port p).record.state = .present ∧ (s.port p).record.periodTimer =
    some left ∧ left ≤ 0 ∧ (s.port p).record.period = some period ∧ (s.port p).record.debt < 8

theorem test_witness_PeriodExpiryRaisesDebt :
    hypPeriodExpiryRaisesDebt (at_ 0 fun q =>
        { q with record := { q.record with debt := 5, periodTimer := some 0 } }) 0 0 10
    ∧ hypPeriodExpiryRaisesDebt (at_ 0 fun q =>
        { q with record := { q.record with debt := 7, periodTimer := some (-3) } }) 0 (-3) 10
    ∧ hypPeriodExpiryRaisesDebt (at_ 0 fun q =>
        { q with record := { q.record with debt := -8, periodTimer := some 0, enables := 0 } }) 0 0 10 := by
  refine ⟨?_, ?_, ?_⟩
  all_goals
    refine ⟨?_, ?_, ?_, ?_, ?_, ?_, ?_⟩ <;> decide +kernel

/-- The hypotheses of ExpiryLapsesPort. -/
def hypExpiryLapsesPort (s : State) (p : PortId) (i : Instr) (left : Int) : Prop :=
  s.phase = .ready ∧ (s.port p).busy = none ∧ ((i = .periodExpiry p ∧ (s.port p).record.state = .present ∧ (s.port
    p).record.periodTimer = some left ∧ left ≤ 0 ∧ (s.port p).record.debt = 8) ∨ (i = .pauseExpiry p ∧ (s.port
    p).record.state = .paused ∧ (s.port p).record.pauseTimer = some 0))

theorem test_witness_ExpiryLapsesPort :
    hypExpiryLapsesPort (at_ 0 fun q => { q with record := { q.record with debt := 8, periodTimer := some 0 } }) 0
        (.periodExpiry 0) 0
    ∧ hypExpiryLapsesPort (at_ 0 fun q =>
        { q with record := { q.record with state := .paused, pauseTimer := some 0 } }) 0 (.pauseExpiry 0) 0 := by
  refine ⟨?_, ?_⟩
  all_goals
    refine ⟨?_, ?_, ?_⟩ <;> decide +kernel

/-- The hypotheses of PortResetHandsOverAndClears. -/
def hypPortResetHandsOverAndClears (s : State) (p : PortId) (_handed : Bool) : Prop :=
  s.phase = .ready ∧ (s.port p).prstLow = false

theorem test_witness_PortResetHandsOverAndClears :
    hypPortResetHandsOverAndClears busyPart 0 false
    ∧ hypPortResetHandsOverAndClears (give 0 0x40 [1, 0, 0, 0, 0, 0, 9]) 0 true := by
  refine ⟨?_, ?_⟩
  all_goals
    refine ⟨?_, ?_⟩ <;> decide +kernel

/-- The hypotheses of PortQueryReportsRecord. -/
def hypPortQueryReportsRecord (s : State) (p : PortId) (c : Command) : Prop :=
  takesNext s p c ∧ c.code = 0x15 ∧ c.params = []

theorem test_witness_PortQueryReportsRecord :
    hypPortQueryReportsRecord (give 0 0x15 []) 0 (cmd 0x15 [])
    ∧ hypPortQueryReportsRecord (giveIn .detached 0 0x15 []) 0 (cmd 0x15 []) := by
  refine ⟨?_, ?_⟩
  all_goals
    refine ⟨by unfold takesNext; decide +kernel, ?_, ?_⟩ <;> decide +kernel

/-- The hypotheses of EventEnableReplacesSettings. -/
def hypEventEnableReplacesSettings (s : State) (p : PortId) (c : Command) (a : EnableParams) : Prop :=
  takesNext s p c ∧ c.code = 0x16 ∧ parseEventEnable c.params = some a ∧ (s.port p).record.state = .present

theorem test_witness_EventEnableReplacesSettings :
    hypEventEnableReplacesSettings (give 0 0x16 [255, 15, 0]) 0 (cmd 0x16 [255, 15, 0]) ⟨0xFFF, false⟩ := by
  refine ⟨by unfold takesNext; decide +kernel, ?_, ?_, ?_⟩ <;> decide +kernel

/-- The hypotheses of EventReadTakesFourRecords. -/
def hypEventReadTakesFourRecords (s : State) (p : PortId) (c : Command) : Prop :=
  takesNext s p c ∧ c.code = 0x17 ∧ c.params = [] ∧ (s.port p).record.state ≠ .detached

theorem test_witness_EventReadTakesFourRecords :
    hypEventReadTakesFourRecords (give 0 0x17 []) 0 (cmd 0x17 [])
    ∧ hypEventReadTakesFourRecords ((giveIn .lapsed 0 0x17 []).modPort 0 fun q =>
        { q with events := List.replicate 5 ⟨.peer, 1, none, 1, some .reset⟩ }) 0 (cmd 0x17 []) := by
  refine ⟨?_, ?_⟩
  all_goals
    refine ⟨by unfold takesNext; decide +kernel, ?_, ?_, ?_⟩ <;> decide +kernel

/-- The hypotheses of AttachNoticeReactivates. -/
def hypAttachNoticeReactivates (s : State) (p : PortId) (c : Command) (awaited : Bool) (rest : List TableMsg) : Prop
    :=
  (s.port p).toTable = .attachNotice awaited :: rest ∧ (awaited = true → (s.port p).busy = some c)

theorem test_witness_AttachNoticeReactivates :
    hypAttachNoticeReactivates (at_ 0 fun q =>
        { q with toTable := [.attachNotice true], busy := some (cmd 0x10 []) }) 0 (cmd 0x10 []) true []
    ∧ hypAttachNoticeReactivates (sent 0 (.attachNotice false)) 0 (cmd 0x10 []) false [] := by
  refine ⟨?_, ?_⟩
  all_goals
    refine ⟨?_, ?_⟩ <;> decide +kernel

/-- The hypotheses of PauseNoticeDefersBlocking. -/
def hypPauseNoticeDefersBlocking (s : State) (p : PortId) (rest : List TableMsg) : Prop :=
  (s.port p).toTable = .pauseNotice :: rest

theorem test_witness_PauseNoticeDefersBlocking :
    hypPauseNoticeDefersBlocking (sent 0 .pauseNotice) 0 [] := by
  unfold hypPauseNoticeDefersBlocking; decide +kernel

/-- The hypotheses of ResumeNoticePromotesDeferred. -/
def hypResumeNoticePromotesDeferred (s : State) (p : PortId) (rest : List TableMsg) : Prop :=
  (s.port p).toTable = .resumeNotice :: rest

theorem test_witness_ResumeNoticePromotesDeferred :
    hypResumeNoticePromotesDeferred (sent 0 .resumeNotice) 0 [] := by
  unfold hypResumeNoticePromotesDeferred; decide +kernel

/-- The hypotheses of LapseNoticeSuspends. -/
def hypLapseNoticeSuspends (s : State) (p : PortId) (rest : List TableMsg) : Prop :=
  tableLaw s ∧ (s.port p).toTable = .lapseNotice :: rest

theorem test_witness_LapseNoticeSuspends :
    hypLapseNoticeSuspends (sent 1 .lapseNotice) 1 []
    ∧ hypLapseNoticeSuspends ((sent 1 .lapseNotice).setChan 7 { chan7 with state := .draining }) 1 [] := by
  refine ⟨?_, ?_⟩
  all_goals
    refine ⟨by first | exact busy_table rfl rfl | exact table_draining _ (busy_table rfl rfl) (by decide +kernel),
      ?_⟩ <;> decide +kernel

/-- The hypotheses of DepartureNoticeRemovesPort. -/
def hypDepartureNoticeRemovesPort (s : State) (p : PortId) (m : TableMsg) (rest : List TableMsg) (i : Instr) (why :
    Reason) : Prop :=
  tableLaw s ∧ (s.port p).toTable = m :: rest ∧ ((i = .detachNotice p ∧ why = .detached ∧ (m = .detachNotice true ∨
    m = .detachNotice false)) ∨ (i = .resetNotice p ∧ why = .reset ∧ m = .resetNotice))

theorem test_witness_DepartureNoticeRemovesPort :
    hypDepartureNoticeRemovesPort (sent 1 (.detachNotice true)) 1 (.detachNotice true) [] (.detachNotice 1)
        .detached
    ∧ hypDepartureNoticeRemovesPort (sent 1 (.detachNotice false)) 1 (.detachNotice false) [] (.detachNotice 1)
        .detached
    ∧ hypDepartureNoticeRemovesPort (sent 1 .resetNotice) 1 .resetNotice [] (.resetNotice 1) .reset
    ∧ hypDepartureNoticeRemovesPort ((sent 1 .resetNotice).setChan 7 { chan7 with state := .draining }) 1 .resetNotice
        [] (.resetNotice 1) .reset := by
  refine ⟨?_, ?_, ?_, ?_⟩
  all_goals
    refine ⟨by first | exact busy_table rfl rfl | exact table_draining _ (busy_table rfl rfl) (by decide +kernel),
      ?_, ?_⟩ <;> decide +kernel

/-- The hypotheses of DetachNoticeCompletesDetach. -/
def hypDetachNoticeCompletesDetach (s : State) (p : PortId) (c : Command) (rest : List TableMsg) : Prop :=
  (s.port p).toTable = .detachNotice true :: rest ∧ (s.port p).busy = some c

theorem test_witness_DetachNoticeCompletesDetach :
    hypDetachNoticeCompletesDetach (at_ 0 fun q =>
        { q with toTable := [.detachNotice true], busy := some (cmd 0x11 []) }) 0 (cmd 0x11 []) [] := by
  refine ⟨?_, ?_⟩ <;> decide +kernel

/-- The hypotheses of AbortRequestFreesRecord. -/
def hypAbortRequestFreesRecord (s : State) (p : PortId) (r : RecId) (ch : ChanId) (rest : List TableMsg) : Prop :=
  (s.port p).toTable = .abort r ch :: rest

theorem test_witness_AbortRequestFreesRecord :
    hypAbortRequestFreesRecord (sent 0 (.abort 5 1)) 0 5 1 []
    ∧ hypAbortRequestFreesRecord (sent 0 (.abort 3 1)) 0 3 1 []
    ∧ hypAbortRequestFreesRecord ((sent 0 (.abort 7 4)).setChan 4 { chan4 with state := .draining }) 0 7 4 [] := by
  refine ⟨?_, ?_, ?_⟩
  all_goals
    unfold hypAbortRequestFreesRecord; decide +kernel

/-- The hypotheses of AbandonmentCountsRedelivery. -/
def hypAbandonmentCountsRedelivery (s : State) (p : PortId) (r : RecId) (ch : ChanId) (rest : List TableMsg) : Prop :=
  (s.port p).toTable = .abandon r ch :: rest

theorem test_witness_AbandonmentCountsRedelivery :
    hypAbandonmentCountsRedelivery (sent 1 (.abandon 2 1)) 1 2 1 []
    ∧ hypAbandonmentCountsRedelivery (withRec 2 { sealedRec 1 0 1 2 with claimant := some 1, redeliveries := 1 } (sent
        1 (.abandon 2 1))) 1 2 1 []
    ∧ hypAbandonmentCountsRedelivery (sent 0 (.abandon 2 1)) 0 2 1 []
    ∧ hypAbandonmentCountsRedelivery ((sent 1 (.abandon 2 1)).setChan 1
        { chan1 with state := .draining, log := [2], reserved := 0, withdrawn := 0 }) 1 2 1 [] := by
  refine ⟨?_, ?_, ?_, ?_⟩
  all_goals
    unfold hypAbandonmentCountsRedelivery; decide +kernel

/-- The hypotheses of ReleaseFreesWithdrawnRecord. -/
def hypReleaseFreesWithdrawnRecord (s : State) (p : PortId) (r : RecId) (rest : List RecId) : Prop :=
  (s.port p).releases = r :: rest

theorem test_witness_ReleaseFreesWithdrawnRecord :
    hypReleaseFreesWithdrawnRecord (at_ 0 fun q => { q with releases := [12] }) 0 12 []
    ∧ hypReleaseFreesWithdrawnRecord (at_ 0 fun q => { q with releases := [4] }) 0 4 []
    ∧ hypReleaseFreesWithdrawnRecord (at_ 0 fun q => { q with releases := [3] }) 0 3 []
    ∧ hypReleaseFreesWithdrawnRecord ((at_ 0 fun q => { q with releases := [12] }).setChan 1
        { chan1 with state := .draining, log := [], reserved := 0 }) 0 12 [] := by
  refine ⟨?_, ?_, ?_, ?_⟩
  all_goals
    unfold hypReleaseFreesWithdrawnRecord; decide +kernel

/-- The hypotheses of ReturnedAnswerIsUndone. -/
def hypReturnedAnswerIsUndone (s : State) (p : PortId) (m : Made) (rest : List Made) : Prop :=
  (s.port p).returns = m :: rest

theorem test_witness_ReturnedAnswerIsUndone :
    hypReturnedAnswerIsUndone (at_ 0 fun q => { q with returns := [.admitted 5 1] }) 0 (.admitted 5 1) []
    ∧ hypReturnedAnswerIsUndone (at_ 0 fun q => { q with returns := [.held 4] }) 0 (.held 4) []
    ∧ hypReturnedAnswerIsUndone (at_ 0 fun q => { q with returns := [.nothing] }) 0 .nothing [] := by
  refine ⟨?_, ?_, ?_⟩
  all_goals
    unfold hypReturnedAnswerIsUndone; decide +kernel

/-- The hypotheses of ExpiryTimerSendsNotice. -/
def hypExpiryTimerSendsNotice (s : State) (r : RecId) : Prop :=
  s.phase = .ready ∧ (expiryDue s.tick (s.record r) → (s.record r).channel.isSome = true ∧ (s.record
    r).sequence.isSome = true)

theorem test_witness_ExpiryTimerSendsNotice :
    hypExpiryTimerSendsNotice (withRec 3 { sealedRec 1 0 2 3 with deadline := some 0 } busyPart) 3
    ∧ hypExpiryTimerSendsNotice busyPart 3
    ∧ hypExpiryTimerSendsNotice (withRec 3 { sealedRec 1 0 2 3 with deadline := some 0 } { busyPart with tick := 1 })
        3 := by
  refine ⟨?_, ?_, ?_⟩
  all_goals
    refine ⟨?_, by unfold expiryDue; decide +kernel⟩ <;> decide +kernel

/-- The hypotheses of ExpiryNoticeRemovesMessage. -/
def hypExpiryNoticeRemovesMessage (s : State) (n : ExpiryNotice) : Prop :=
  n ∈ s.store.notices

theorem test_witness_ExpiryNoticeRemovesMessage :
    hypExpiryNoticeRemovesMessage (busyPart.setStore
        { (busyPart.store.setRecord 0 { sealedRec 0 0 1 0 with pending := some 2, fired := true }) with notices := [⟨0, 0, 1⟩] })
        ⟨0, 0, 1⟩
    ∧ hypExpiryNoticeRemovesMessage (busyPart.setStore { busyPart.store with notices := [⟨5, 0, 9⟩] }) ⟨5, 0, 9⟩
    ∧ hypExpiryNoticeRemovesMessage ((busyPart.setStore
        { (busyPart.store.setRecord 14 { sealedRec 7 0 1 13 with pending := some 2, fired := true }) with notices := [⟨14, 7, 1⟩] }).setChan
        7 { chan7 with state := .draining }) ⟨14, 7, 1⟩ := by
  refine ⟨?_, ?_, ?_⟩
  all_goals
    unfold hypExpiryNoticeRemovesMessage; decide +kernel

/-- The hypotheses of DefineTakesLowestUnused. -/
def hypDefineTakesLowestUnused (s : State) (p : PortId) (c : Command) (a : DefineParams) (ch : ChanId) : Prop :=
  takesNextAtTable s p c ∧ c.code = 0x20 ∧ parseDefine c.params = some a ∧ (∀ d, (s.chan d).state ≠ .unused →
    (s.chan d).name ≠ some a.name) ∧ (s.chan ch).state = .unused ∧ (∀ d, d < ch → (s.chan d).state ≠ .unused)

theorem test_witness_DefineTakesLowestUnused :
    hypDefineTakesLowestUnused (give 0 0x20 (named 0x5A ++ [1, 64, 0, 2, 15, 1])) 0 (cmd 0x20 (named 0x5A ++ [1, 64,
        0, 2, 15, 1])) ⟨named 0x5A, .queue, 64, 512, 15, 1⟩ 3 := by
  refine ⟨by unfold takesNextAtTable takesNext; decide +kernel, ?_, ?_, ?_, ?_, ?_⟩ <;> decide +kernel

/-- The hypotheses of DefineRefusals. -/
def hypDefineRefusals (s : State) (p : PortId) (c : Command) (a : DefineParams) : Prop :=
  takesNextAtTable s p c ∧ c.code = 0x20 ∧ parseDefine c.params = some a ∧ (∀ d e, (s.chan d).state ≠ .unused →
    (s.chan e).state ≠ .unused → (s.chan d).name = some a.name → (s.chan e).name = some a.name → d = e) ∧ ((∃ d,
    (s.chan d).state ≠ .unused ∧ (s.chan d).name = some a.name) ∨ (∀ d, (s.chan d).state ≠ .unused))

theorem test_witness_DefineRefusals :
    hypDefineRefusals (give 0 0x20 (named 0x42 ++ [1, 64, 0, 2, 15, 1])) 0 (cmd 0x20 (named 0x42 ++ [1, 64, 0, 2,
        15, 1])) ⟨named 0x42, .queue, 64, 512, 15, 1⟩
    ∧ hypDefineRefusals ((give 0 0x20 (named 0x42 ++ [1, 64, 0, 2, 15, 1])).setChan 1
        { chan1 with state := .draining }) 0 (cmd 0x20 (named 0x42 ++ [1, 64, 0, 2, 15, 1])) ⟨named 0x42,
        .queue, 64, 512, 15, 1⟩
    ∧ hypDefineRefusals
        { give 0 0x20 (named 0x42 ++ [1, 64, 0, 2, 15, 1]) with table := ⟨Vector.replicate 16 { state := .opened }, Vector.replicate 4 .present⟩ }
        0 (cmd 0x20 (named 0x42 ++ [1, 64, 0, 2, 15, 1])) ⟨named 0x42, .queue, 64, 512, 15, 1⟩ := by
  refine ⟨?_, ?_, ?_⟩
  all_goals
    refine ⟨by unfold takesNextAtTable takesNext; decide +kernel, ?_, ?_, ?_, ?_⟩ <;> decide +kernel

/-- The hypotheses of LookupFindsChannelByName. -/
def hypLookupFindsChannelByName (s : State) (p : PortId) (c : Command) : Prop :=
  takesNextAtTable s p c ∧ c.code = 0x21 ∧ c.params.length = 8 ∧ (∀ d e, (s.chan d).state ≠ .unused → (s.chan
    e).state ≠ .unused → (s.chan d).name = some c.params → (s.chan e).name = some c.params → d = e)

theorem test_witness_LookupFindsChannelByName :
    hypLookupFindsChannelByName (give 0 0x21 (named 0x42)) 0 (cmd 0x21 (named 0x42))
    ∧ hypLookupFindsChannelByName (give 0 0x21 (named 0x7E)) 0 (cmd 0x21 (named 0x7E))
    ∧ hypLookupFindsChannelByName (give 0 0x21 (named 0x1F)) 0 (cmd 0x21 (named 0x1F))
    ∧ hypLookupFindsChannelByName (give 0 0x21 (List.replicate 8 0x20)) 0 (cmd 0x21 (List.replicate 8 0x20)) := by
  refine ⟨?_, ?_, ?_, ?_⟩
  all_goals
    refine ⟨by unfold takesNextAtTable takesNext; decide +kernel, ?_, ?_, ?_⟩ <;> decide +kernel

/-- The hypotheses of UnusedChannelIsNochannel. -/
def hypUnusedChannelIsNochannel (s : State) (p : PortId) (c : Command) (i : Instr) (ch : ChanId) (b : Byte) (bs : List
    Byte) : Prop :=
  takesNextAtTable s p c ∧ rowFor p c = some i ∧ inRange c = true ∧ c.code ∈ [0x22, 0x23, 0x24, 0x25, 0x30, 0x31,
    0x32, 0x33, 0x40, 0x41, 0x50, 0x51, 0x60, 0x61] ∧ (c.code = 0x41 → (s.port p).staging.length < 8) ∧ ((c.code =
    0x60 ∨ c.code = 0x61 → (s.port p).stream.state = .idle)) ∧ c.params = b :: bs ∧ b.toNat = ch.val ∧ (s.chan
    ch).state = .unused

theorem test_witness_UnusedChannelIsNochannel :
    hypUnusedChannelIsNochannel (give 0 0x40 [3, 0, 0, 0, 0, 0, 9]) 0 (cmd 0x40 [3, 0, 0, 0, 0, 0, 9]) (.post 0) 3 3
        [0, 0, 0, 0, 0, 9]
    ∧ hypUnusedChannelIsNochannel (give 0 0x23 [15]) 0 (cmd 0x23 [15]) (.purge 0) 15 15 []
    ∧ hypUnusedChannelIsNochannel (give 0 0x61 [3, 0, 0]) 0 (cmd 0x61 [3, 0, 0]) (.openFetch 0) 3 3 [0, 0] := by
  refine ⟨?_, ?_, ?_⟩
  all_goals
    refine ⟨by unfold takesNextAtTable takesNext; decide +kernel, ?_, ?_, ?_, ?_, ?_, ?_, ?_, ?_⟩ <;> decide +kernel

/-- The hypotheses of NonAdminIsDenied. -/
def hypNonAdminIsDenied (s : State) (p : PortId) (c : Command) (i : Instr) (ch : ChanId) (b : Byte) (bs : List Byte) :
    Prop :=
  takesNextAtTable s p c ∧ rowFor p c = some i ∧ inRange c = true ∧ c.code ∈ [0x22, 0x23, 0x24] ∧ c.params = b :: bs
    ∧ b.toNat = ch.val ∧ (s.chan ch).state ≠ .unused ∧ inSet (s.chan ch).admins p = false

theorem test_witness_NonAdminIsDenied :
    hypNonAdminIsDenied (give 1 0x22 [0, 1]) 1 (cmd 0x22 [0, 1]) (.closeForce 1) 0 0 [1]
    ∧ hypNonAdminIsDenied (give 1 0x23 [0]) 1 (cmd 0x23 [0]) (.purge 1) 0 0 []
    ∧ hypNonAdminIsDenied (give 1 0x24 [0, 0, 0, 0, 0, 0, 0]) 1 (cmd 0x24 [0, 0, 0, 0, 0, 0, 0]) (.modify 1) 0 0 [0,
        0, 0, 0, 0, 0] := by
  refine ⟨?_, ?_, ?_⟩
  all_goals
    refine ⟨by unfold takesNextAtTable takesNext; decide +kernel, ?_, ?_, ?_, ?_, ?_, ?_, ?_⟩ <;> decide +kernel

/-- The hypotheses of CloseBeginsDrain. -/
def hypCloseBeginsDrain (s : State) (p : PortId) (c : Command) (ch : ChanId) : Prop :=
  takesNextAtTable s p c ∧ c.code = 0x22 ∧ parseClose c.params = some ⟨ch, false⟩ ∧ (s.chan ch).state ≠ .unused ∧
    inSet (s.chan ch).admins p = true

theorem test_witness_CloseBeginsDrain :
    hypCloseBeginsDrain (give 0 0x22 [1, 0]) 0 (cmd 0x22 [1, 0]) 1
    ∧ hypCloseBeginsDrain ((give 0 0x22 [3, 0]).setChan 3 (openChan 0x43 .fanout 4)) 0 (cmd 0x22 [3, 0]) 3
    ∧ hypCloseBeginsDrain ((give 0 0x22 [1, 0]).setChan 1 { chan1 with state := .draining }) 0 (cmd 0x22 [1, 0]) 1 := by
  refine ⟨?_, ?_, ?_⟩
  all_goals
    refine ⟨by unfold takesNextAtTable takesNext; decide +kernel, ?_, ?_, ?_, ?_⟩ <;> decide +kernel

/-- The hypotheses of ForcedCloseEndsAllWork. -/
def hypForcedCloseEndsAllWork (s : State) (p : PortId) (c : Command) (ch : ChanId) : Prop :=
  tableLaw s ∧ takesNextAtTable s p c ∧ c.code = 0x22 ∧ parseClose c.params = some ⟨ch, true⟩ ∧ (s.chan ch).state ≠
    .unused ∧ inSet (s.chan ch).admins p = true

theorem test_witness_ForcedCloseEndsAllWork :
    hypForcedCloseEndsAllWork (give 0 0x22 [1, 1]) 0 (cmd 0x22 [1, 1]) 1
    ∧ hypForcedCloseEndsAllWork ((give 0 0x22 [1, 1]).modPort 0 fun q =>
        { q with stream := writing 6 1 .openEnded 3 none, staging := [.live 5 1, .void 3] }) 0 (cmd 0x22 [1, 1])
        1 := by
  refine ⟨?_, ?_⟩
  all_goals
    refine ⟨busy_table rfl rfl, by unfold takesNextAtTable takesNext; decide +kernel, ?_, ?_, ?_, ?_⟩
      <;> decide +kernel

/-- The hypotheses of PurgeEmptiesLog. -/
def hypPurgeEmptiesLog (s : State) (p : PortId) (c : Command) (ch : ChanId) : Prop :=
  tableLaw s ∧ takesNextAtTable s p c ∧ c.code = 0x23 ∧ parseChannel c.params = some ch ∧ (s.chan ch).state ≠
    .unused ∧ inSet (s.chan ch).admins p = true

theorem test_witness_PurgeEmptiesLog :
    hypPurgeEmptiesLog (give 0 0x23 [0]) 0 (cmd 0x23 [0]) 0
    ∧ hypPurgeEmptiesLog (give 0 0x23 [1]) 0 (cmd 0x23 [1]) 1
    ∧ hypPurgeEmptiesLog ((give 0 0x23 [7]).setChan 7 { chan7 with state := .draining }) 0 (cmd 0x23 [7]) 7 := by
  refine ⟨?_, ?_, ?_⟩
  all_goals
    refine ⟨by first | exact busy_table rfl rfl | exact table_draining _ (busy_table rfl rfl) (by decide +kernel),
      by unfold takesNextAtTable takesNext; decide +kernel, ?_, ?_, ?_, ?_⟩ <;> decide +kernel

/-- The hypotheses of ModifyReplacesPresentSettings. -/
def hypModifyReplacesPresentSettings (s : State) (p : PortId) (c : Command) (a : ModifyParams) : Prop :=
  takesNextAtTable s p c ∧ c.code = 0x24 ∧ parseModify c.params = some a ∧ (s.chan a.channel).state ≠ .unused ∧
    inSet (s.chan a.channel).admins p = true ∧ (∀ d ∈ a.depth, ((s.chan a.channel).kind = some .latest → d = 1) ∧
    ((s.chan a.channel).kind ≠ some .latest → (s.chan a.channel).log.length + (s.chan a.channel).reserved ≤ d)) ∧ (∀
    n ∈ a.quota, (s.chan a.channel).blocksInUse ≤ n) ∧ (∀ ps ∈ a.posters, ∀ r o, (s.record r).state = .filling →
    (s.record r).channel = some a.channel → (s.record r).origin = some o → inSet ps o = true)

theorem test_witness_ModifyReplacesPresentSettings :
    hypModifyReplacesPresentSettings (give 0 0x24 [1, 15, 8, 9, 0, 15, 1]) 0 (cmd 0x24 [1, 15, 8, 9, 0, 15, 1]) ⟨1,
        some 8, some 9, some 15, some 1⟩
    ∧ hypModifyReplacesPresentSettings (give 0 0x24 [2, 0, 0, 0, 0, 0, 0]) 0 (cmd 0x24 [2, 0, 0, 0, 0, 0, 0]) ⟨2,
        none, none, none, none⟩ := by
  refine ⟨?_, ?_⟩
  all_goals
    refine ⟨by unfold takesNextAtTable takesNext; decide +kernel, ?_, ?_, ?_, ?_, ?_, ?_, ?_⟩ <;> decide +kernel

/-- The hypotheses of ModifyRefusals. -/
def hypModifyRefusals (s : State) (p : PortId) (c : Command) (a : ModifyParams) (limit busy : Bool) : Prop :=
  takesNextAtTable s p c ∧ c.code = 0x24 ∧ parseModify c.params = some a ∧ (s.chan a.channel).state ≠ .unused ∧
    inSet (s.chan a.channel).admins p = true ∧ ((limit = true ↔ (∃ d ∈ a.depth, ((s.chan a.channel).kind = some
    .latest ∧ d ≠ 1) ∨ ((s.chan a.channel).kind ≠ some .latest ∧ d < (s.chan a.channel).log.length + (s.chan
    a.channel).reserved)) ∨ ∃ n ∈ a.quota, n < (s.chan a.channel).blocksInUse)) ∧ (busy = true ↔ ∃ ps ∈ a.posters, ∃
    r o, (s.record r).state = .filling ∧ (s.record r).channel = some a.channel ∧ (s.record r).origin = some o ∧
    inSet ps o = false) ∧ (limit = true ∨ busy = true)

theorem test_witness_ModifyRefusals :
    hypModifyRefusals (give 0 0x24 [1, 1, 3, 0, 0, 0, 0]) 0 (cmd 0x24 [1, 1, 3, 0, 0, 0, 0]) ⟨1, some 3, none, none,
        none⟩ true false
    ∧ hypModifyRefusals (give 0 0x24 [2, 1, 2, 0, 0, 0, 0]) 0 (cmd 0x24 [2, 1, 2, 0, 0, 0, 0]) ⟨2, some 2, none, none,
        none⟩ true false
    ∧ hypModifyRefusals (give 0 0x24 [1, 2, 0, 4, 0, 0, 0]) 0 (cmd 0x24 [1, 2, 0, 4, 0, 0, 0]) ⟨1, none, some 4, none,
        none⟩ true false
    ∧ hypModifyRefusals (give 0 0x24 [1, 4, 0, 0, 0, 14, 0]) 0 (cmd 0x24 [1, 4, 0, 0, 0, 14, 0]) ⟨1, none, none, some
        14, none⟩ false true := by
  refine ⟨?_, ?_, ?_, ?_⟩
  all_goals
    refine ⟨by unfold takesNextAtTable takesNext; decide +kernel, ?_, ?_, ?_, ?_, ?_, ?_, ?_⟩ <;> decide +kernel

/-- The hypotheses of ChannelQueryReportsChannel. -/
def hypChannelQueryReportsChannel (s : State) (p : PortId) (c : Command) (ch : ChanId) (name : List Byte) (kind :
    Kind) : Prop :=
  takesNextAtTable s p c ∧ c.code = 0x25 ∧ parseChannel c.params = some ch ∧ (s.chan ch).state ≠ .unused ∧ (s.chan
    ch).name = some name ∧ (s.chan ch).kind = some kind

theorem test_witness_ChannelQueryReportsChannel :
    hypChannelQueryReportsChannel (give 3 0x25 [0]) 3 (cmd 0x25 [0]) 0 (named 0x41) .fanout := by
  refine ⟨by unfold takesNextAtTable takesNext; decide +kernel, ?_, ?_, ?_, ?_, ?_⟩ <;> decide +kernel

/-- The hypotheses of SubscribeFillsSlot. -/
def hypSubscribeFillsSlot (s : State) (p : PortId) (c : Command) (a : SubscribeParams) (kind : Kind) : Prop :=
  takesNextAtTable s p c ∧ c.code = 0x30 ∧ parseSubscribe c.params = some a ∧ (s.chan a.channel).state = .opened ∧
    (s.chan a.channel).sub p = none ∧ (s.chan a.channel).kind = some kind ∧ (∀ r ∈ (s.chan a.channel).log, (s.record
    r).lists p = false)

theorem test_witness_SubscribeFillsSlot :
    hypSubscribeFillsSlot (give 2 0x30 [0, 0, 1, 1]) 2 (cmd 0x30 [0, 0, 1, 1]) ⟨0, .blocking, 1, .each⟩ .fanout
    ∧ hypSubscribeFillsSlot (give 2 0x30 [1, 1, 64, 0]) 2 (cmd 0x30 [1, 1, 64, 0]) ⟨1, .lossy, 64, .never⟩ .queue
    ∧ hypSubscribeFillsSlot (give 2 0x30 [2, 1, 64, 2]) 2 (cmd 0x30 [2, 1, 64, 2]) ⟨2, .lossy, 64, .edge⟩ .latest := by
  refine ⟨?_, ?_, ?_⟩
  all_goals
    refine ⟨by unfold takesNextAtTable takesNext; decide +kernel, ?_, ?_, ?_, ?_, ?_, ?_⟩ <;> decide +kernel

/-- The hypotheses of UnsubscribeEmptiesSlot. -/
def hypUnsubscribeEmptiesSlot (s : State) (p : PortId) (c : Command) (ch : ChanId) : Prop :=
  tableLaw s ∧ takesNextAtTable s p c ∧ c.code = 0x31 ∧ parseChannel c.params = some ch ∧ (s.chan ch).state ≠
    .unused ∧ ((s.chan ch).sub p).isSome = true ∧ hasReadOn s ch p = false

theorem test_witness_UnsubscribeEmptiesSlot :
    hypUnsubscribeEmptiesSlot (give 0 0x31 [0]) 0 (cmd 0x31 [0]) 0
    ∧ hypUnsubscribeEmptiesSlot (give 1 0x31 [4]) 1 (cmd 0x31 [4]) 4
    ∧ hypUnsubscribeEmptiesSlot ((give 1 0x31 [7]).setChan 7 { chan7 with state := .draining }) 1 (cmd 0x31 [7]) 7 := by
  refine ⟨?_, ?_, ?_⟩
  all_goals
    refine ⟨by first | exact busy_table rfl rfl | exact table_draining _ (busy_table rfl rfl) (by decide +kernel),
      by unfold takesNextAtTable takesNext; decide +kernel, ?_, ?_, ?_, ?_, ?_⟩ <;> decide +kernel

/-- The hypotheses of SubModifyTrimsToLimit. -/
def hypSubModifyTrimsToLimit (s : State) (p : PortId) (c : Command) (a : SubModifyParams) (sub : Sub) (f : FanSub) :
    Prop :=
  tableLaw s ∧ takesNextAtTable s p c ∧ c.code = 0x32 ∧ parseSubModify c.params = some a ∧ (s.chan a.channel).state
    ≠ .unused ∧ (s.chan a.channel).kind = some .fanout ∧ (s.chan a.channel).sub p = some sub ∧ sub.fan = some f ∧
    (a.mode.isSome = true ∨ a.limit.isSome = true ∨ a.notify.isSome = true)

theorem test_witness_SubModifyTrimsToLimit :
    hypSubModifyTrimsToLimit (give 1 0x32 [0, 2, 0, 1, 0]) 1 (cmd 0x32 [0, 2, 0, 1, 0]) ⟨0, none, some 1, none⟩
        { suspended := false, fan := some ⟨.lossy, .lossy, 2⟩, notify := .edge } ⟨.lossy, .lossy, 2⟩
    ∧ hypSubModifyTrimsToLimit (give 0 0x32 [0, 3, 1, 1, 0]) 0 (cmd 0x32 [0, 3, 1, 1, 0]) ⟨0, some .lossy, some 1,
        none⟩ { suspended := false, fan := some ⟨.blocking, .blocking, 2⟩, notify := .each } ⟨.blocking,
        .blocking, 2⟩
    ∧ hypSubModifyTrimsToLimit ((give 1 0x32 [0, 2, 0, 1, 0]).setChan 0 { chan0 with state := .draining }) 1 (cmd 0x32
        [0, 2, 0, 1, 0]) ⟨0, none, some 1, none⟩
        { suspended := false, fan := some ⟨.lossy, .lossy, 2⟩, notify := .edge } ⟨.lossy, .lossy, 2⟩ := by
  refine ⟨?_, ?_, ?_⟩
  all_goals
    refine ⟨by first | exact busy_table rfl rfl | exact table_draining _ (busy_table rfl rfl) (by decide +kernel),
      by unfold takesNextAtTable takesNext; decide +kernel, ?_, ?_, ?_, ?_, ?_, ?_, ?_⟩ <;> decide +kernel

/-- The hypotheses of SubQueryClearsFlags. -/
def hypSubQueryClearsFlags (s : State) (p : PortId) (c : Command) (a : SubQueryParams) (sub : Sub) (kind : Kind) :
    Prop :=
  let ch := a.channel
  takesNextAtTable s p c ∧ c.code = 0x33 ∧ parseSubQuery c.params = some a ∧ (s.chan ch).state ≠ .unused ∧ (s.chan
    ch).kind = some kind ∧ (s.chan ch).sub p = some sub ∧ (sub.fan.isSome = true ↔ kind = .fanout)

theorem test_witness_SubQueryClearsFlags :
    hypSubQueryClearsFlags (give 0 0x33 [2, 1]) 0 (cmd 0x33 [2, 1]) ⟨2, true⟩
        { suspended := false, fan := none, notify := .each } .latest
    ∧ hypSubQueryClearsFlags (give 1 0x33 [0, 0]) 1 (cmd 0x33 [0, 0]) ⟨0, false⟩
        { suspended := false, fan := some ⟨.lossy, .lossy, 2⟩, notify := .edge } .fanout
    ∧ hypSubQueryClearsFlags ((give 0 0x33 [1, 0]).setChan 1 { chan1 with subs := chan2.subs }) 0 (cmd 0x33 [1, 0])
        ⟨1, false⟩ { suspended := false, fan := none, notify := .each } .queue := by
  refine ⟨?_, ?_, ?_⟩
  all_goals
    refine ⟨by unfold takesNextAtTable takesNext; decide +kernel, ?_, ?_, ?_, ?_, ?_, ?_⟩ <;> decide +kernel

/-- The hypotheses of AdmissionRefusals. -/
def hypAdmissionRefusals (s : State) (a : Allocation) (st : Status) : Prop :=
  let c := s.chan a.channel
  let fits := a.length ≤ 4096 ∧ inSet c.posters a.origin = true ∧ c.state = .opened
  let deep := c.log.length + c.reserved + 1 ≤ c.depth
  let bounds := ∀ q f, c.active q = true → c.fanSub q = some f → f.effective = .blocking →
      lag s a.channel q + c.reserved + 1 ≤ f.limit
  let room := (c.kind = some .queue ∧ deep) ∨ (c.kind = some .latest ∧ c.reserved < 4)
      ∨ (c.kind = some .fanout ∧ deep ∧ bounds)
  ((c.state = .unused ∧ st = .nochannel) ∨ (c.state = .draining ∧ st = .closed) ∨ (c.state = .opened ∧ inSet
    c.posters a.origin = false ∧ st = .denied) ∨ (c.state = .opened ∧ inSet c.posters a.origin = true ∧ 4096 <
    a.length ∧ st = .limit) ∨ (fits ∧ c.kind = some .queue ∧ ¬ deep ∧ st = .full) ∨ (fits ∧ c.kind = some .fanout ∧
    ¬ deep ∧ c.log = [] ∧ st = .full) ∨ (fits ∧ c.kind = some .fanout ∧ deep ∧ ¬ bounds ∧ st = .full) ∨ (fits ∧
    c.kind = some .latest ∧ 4 ≤ c.reserved ∧ st = .full) ∨ (fits ∧ room ∧ c.quota < c.blocksInUse + (a.length + 63)
    / 64 ∧ st = .quota) ∨ (fits ∧ room ∧ c.blocksInUse + (a.length + 63) / 64 ≤ c.quota ∧ ((∀ r, (s.record r).state
    ≠ .free) ∨ s.store.free.length < (a.length + 63) / 64) ∧ st = .nospace))

theorem test_witness_AdmissionRefusals :
    hypAdmissionRefusals busyPart ⟨3, 0, .counted, 1, none, none⟩ .nochannel
    ∧ hypAdmissionRefusals (busyPart.setChan 1 { chan1 with state := .draining }) ⟨1, 0, .counted, 1, none, none⟩
        .closed
    ∧ hypAdmissionRefusals (busyPart.setChan 1 { chan1 with posters := 14 }) ⟨1, 0, .counted, 1, none, none⟩ .denied
    ∧ hypAdmissionRefusals busyPart ⟨1, 0, .counted, 4097, none, none⟩ .limit
    ∧ hypAdmissionRefusals (busyPart.setChan 1 { chan1 with depth := 4 }) ⟨1, 0, .counted, 1, none, none⟩ .full
    ∧ hypAdmissionRefusals (busyPart.setChan 5 { chan5 with depth := 2 }) ⟨5, 0, .counted, 1, none, none⟩ .full
    ∧ hypAdmissionRefusals (busyPart.setChan 0
        { chan0 with depth := 3, subs := #v[fanSub .blocking .blocking 1 .each, none, none, none] }) ⟨0, 0,
        .counted, 1, none, none⟩ .full
    ∧ hypAdmissionRefusals (busyPart.setChan 2 { chan2 with reserved := 4 }) ⟨2, 0, .counted, 1, none, none⟩ .full
    ∧ hypAdmissionRefusals busyPart ⟨1, 0, .counted, 193, none, none⟩ .quota
    ∧ hypAdmissionRefusals busyPart ⟨4, 0, .counted, 449, none, none⟩ .quota
    ∧ hypAdmissionRefusals (busyPart.setStore { busyPart.store with free := [] }) ⟨1, 0, .counted, 1, none, none⟩
        .nospace
    ∧ hypAdmissionRefusals (busyPart.setStore { busyPart.store with free := [] }) ⟨4, 0, .counted, 1, none, none⟩
        .nospace
    ∧ hypAdmissionRefusals (busyPart.setStore
        { busyPart.store with recs := Vector.replicate 256 (sealedRec 1 0 1 0) }) ⟨2, 0, .counted, 1, none,
        none⟩ .nospace := by
  refine ⟨Or.inl (?_),
    Or.inr (Or.inl (?_)),
    Or.inr (Or.inr (Or.inl (?_))),
    Or.inr (Or.inr (Or.inr (Or.inl (?_)))),
    Or.inr (Or.inr (Or.inr (Or.inr (Or.inl (?_))))),
    Or.inr (Or.inr (Or.inr (Or.inr (Or.inr (Or.inl (?_)))))),
    Or.inr (Or.inr (Or.inr (Or.inr (Or.inr (Or.inr (Or.inl ⟨?_, ?_, ?_, fun h => absurd (h 0 ⟨.blocking, .blocking, 1⟩ (by decide +kernel) (by decide +kernel) rfl)
      (by decide +kernel), ?_⟩)))))),
    Or.inr (Or.inr (Or.inr (Or.inr (Or.inr (Or.inr (Or.inr (Or.inl (?_)))))))),
    Or.inr (Or.inr (Or.inr (Or.inr (Or.inr (Or.inr (Or.inr (Or.inr (Or.inl ⟨?_, Or.inl (?_), ?_⟩)))))))),
    Or.inr (Or.inr (Or.inr (Or.inr (Or.inr (Or.inr (Or.inr (Or.inr (Or.inl ⟨?_, Or.inr (Or.inr ⟨?_, ?_, by
        have hb : ∀ q, ((((busyPart).chan 4).fanSub q).all fun f => decide (f.effective = .blocking →
            lag (busyPart) 4 q + ((busyPart).chan 4).reserved + 1 ≤ f.limit)) = true := by decide +kernel
        exact fun q f _ hf => of_all_some (hb q) f hf⟩), ?_⟩)))))))),
    Or.inr (Or.inr (Or.inr (Or.inr (Or.inr (Or.inr (Or.inr (Or.inr (Or.inr ⟨?_, Or.inl (?_), ?_⟩)))))))),
    Or.inr (Or.inr (Or.inr (Or.inr (Or.inr (Or.inr (Or.inr (Or.inr (Or.inr ⟨?_, Or.inr (Or.inr ⟨?_, ?_, by
        have hb : ∀ q, ((((busyPart.setStore { busyPart.store with free := [] }).chan 4).fanSub q).all fun f => decide (f.effective = .blocking →
            lag (busyPart.setStore { busyPart.store with free := [] }) 4 q + ((busyPart.setStore { busyPart.store with free := [] }).chan 4).reserved + 1 ≤ f.limit)) = true := by decide +kernel
        exact fun q f _ hf => of_all_some (hb q) f hf⟩), ?_⟩)))))))),
    Or.inr (Or.inr (Or.inr (Or.inr (Or.inr (Or.inr (Or.inr (Or.inr (Or.inr ⟨?_, Or.inr (Or.inl (?_)), ?_⟩))))))))⟩ <;> decide +kernel

/-- The hypotheses of FullFanoutChannelEvictsOldest. -/
def hypFullFanoutChannelEvictsOldest (s : State) (a : Allocation) (r : RecId) (rest : List RecId) : Prop :=
  let ch := a.channel
  let c := s.chan ch
  tableLaw s ∧ c.state = .opened ∧ inSet c.posters a.origin = true ∧ a.length ≤ 4096 ∧ c.kind = some .fanout ∧
    c.depth < c.log.length + c.reserved + 1 ∧ c.log = r :: rest

theorem test_witness_FullFanoutChannelEvictsOldest :
    hypFullFanoutChannelEvictsOldest busyPart ⟨0, 0, .counted, 3, none, none⟩ 0 [1] := by
  refine ⟨busy_table rfl rfl, ?_, ?_, ?_, ?_, ?_, ?_⟩ <;> decide +kernel

/-- The hypotheses of AdmissionReservesRecord. -/
def hypAdmissionReservesRecord (s : State) (a : Allocation) (r : RecId) : Prop :=
  let ch := a.channel
  let c := s.chan ch
  let n := (a.length + 63) / 64
  c.state = .opened ∧ inSet c.posters a.origin = true ∧ a.length ≤ 4096 ∧ ((c.kind = some .queue ∧ c.log.length +
    c.reserved + 1 ≤ c.depth) ∨ (c.kind = some .latest ∧ c.reserved < 4) ∨ (c.kind = some .fanout ∧ c.log.length +
    c.reserved + 1 ≤ c.depth ∧ ∀ q f, c.active q = true → c.fanSub q = some f → f.effective = .blocking → lag s ch q
    + c.reserved + 1 ≤ f.limit)) ∧ c.blocksInUse + n ≤ c.quota ∧ n ≤ s.store.free.length ∧ (s.record r).state =
    .free ∧ (∀ o, o < r → (s.record o).state ≠ .free)

theorem test_witness_AdmissionReservesRecord :
    hypAdmissionReservesRecord busyPart ⟨1, 0, .counted, 192, none, none⟩ 13
    ∧ hypAdmissionReservesRecord (busyPart.setChan 1 { chan1 with depth := 5 }) ⟨1, 0, .counted, 0, none, none⟩ 13
    ∧ hypAdmissionReservesRecord (busyPart.setChan 2 { chan2 with reserved := 3 }) ⟨2, 3, .counted, 1, none, none⟩ 13
    ∧ hypAdmissionReservesRecord busyPart ⟨4, 0, .counted, 64, none, none⟩ 13 := by
  refine ⟨⟨?_, ?_, ?_, .inl ?_, ?_, ?_, ?_, ?_⟩,
    ⟨?_, ?_, ?_, .inl ?_, ?_, ?_, ?_, ?_⟩,
    ⟨?_, ?_, ?_, .inr (.inl ?_), ?_, ?_, ?_, ?_⟩,
    ⟨?_, ?_, ?_, Or.inr (Or.inr ⟨?_, ?_, by
        have hb : ∀ q, (((busyPart.chan 4).fanSub q).all fun f => decide (f.effective = .blocking →
            lag busyPart 4 q + (busyPart.chan 4).reserved + 1 ≤ f.limit)) = true := by decide +kernel
        exact fun q f _ hf => of_all_some (hb q) f hf⟩),
      ?_, ?_, ?_, ?_⟩⟩ <;> decide +kernel

/-- The hypotheses of PostOnQueueSealsMessage. -/
def hypPostOnQueueSealsMessage (s : State) (p : PortId) (c : Command) (a : PostParams) (r : RecId) (b : BlockId) (rest
    : List BlockId) : Prop :=
  let ch := a.channel
  tableLaw s ∧ poolLaw s ∧ takesNextAtTable s p c ∧ c.code = 0x40 ∧ parsePost c.params = some a ∧ 1 ≤
    a.payload.length ∧ a.payload.length ≤ 48 ∧ (s.chan ch).state = .opened ∧ (s.chan ch).kind = some .queue ∧ inSet
    (s.chan ch).posters p = true ∧ (s.chan ch).log.length + (s.chan ch).reserved + 1 ≤ (s.chan ch).depth ∧ (s.chan
    ch).blocksInUse + 1 ≤ (s.chan ch).quota ∧ s.store.free = b :: rest ∧ (s.record r).state = .free ∧ (∀ o, o < r →
    (s.record o).state ≠ .free)

theorem test_witness_PostOnQueueSealsMessage :
    hypPostOnQueueSealsMessage (give 0 0x40 [1, 0, 0, 0, 0, 0, 9]) 0 (cmd 0x40 [1, 0, 0, 0, 0, 0, 9]) ⟨1, none,
        none, [9]⟩ 13 14 ((List.finRange 512).drop 15)
    ∧ hypPostOnQueueSealsMessage (give 1 0x40 ([1, 3, 5, 0, 96, 234] ++ List.replicate 48 9)) 1 (cmd 0x40 ([1, 3, 5,
        0, 96, 234] ++ List.replicate 48 9)) ⟨1, some 5, some 60000, List.replicate 48 9⟩ 13 14 ((List.finRange
        512).drop 15) := by
  refine ⟨?_, ?_⟩
  all_goals
    refine ⟨busy_table rfl rfl, busy_pool rfl, by unfold takesNextAtTable takesNext; decide +kernel, ?_, ?_, ?_, ?_,
      ?_, ?_, ?_, ?_, ?_, ?_, ?_, ?_⟩ <;> decide +kernel

/-- The hypotheses of PostOnLatestReplacesValue. -/
def hypPostOnLatestReplacesValue (s : State) (p : PortId) (c : Command) (a : PostParams) (r : RecId) (b : BlockId)
    (rest : List BlockId) : Prop :=
  let ch := a.channel
  tableLaw s ∧ depthLaw s ∧ poolLaw s ∧ takesNextAtTable s p c ∧ c.code = 0x40 ∧ parsePost c.params = some a ∧ 1 ≤
    a.payload.length ∧ a.payload.length ≤ 48 ∧ (s.chan ch).state = .opened ∧ (s.chan ch).kind = some .latest ∧ inSet
    (s.chan ch).posters p = true ∧ (s.chan ch).reserved < 4 ∧ (s.chan ch).blocksInUse + 1 ≤ (s.chan ch).quota ∧
    s.store.free = b :: rest ∧ (s.record r).state = .free ∧ (∀ o, o < r → (s.record o).state ≠ .free)

theorem test_witness_PostOnLatestReplacesValue :
    hypPostOnLatestReplacesValue (give 0 0x40 [2, 0, 0, 0, 0, 0, 9]) 0 (cmd 0x40 [2, 0, 0, 0, 0, 0, 9]) ⟨2, none,
        none, [9]⟩ 13 14 ((List.finRange 512).drop 15) := by
  refine ⟨busy_table rfl rfl, busy_depth rfl, busy_pool rfl, by unfold takesNextAtTable takesNext; decide +kernel,
    ?_, ?_, ?_, ?_, ?_, ?_, ?_, ?_, ?_, ?_, ?_, ?_⟩ <;> decide +kernel

/-- The hypotheses of PostOnFanoutListsActivePorts. -/
def hypPostOnFanoutListsActivePorts (s : State) (p : PortId) (c : Command) (a : PostParams) (r : RecId) (b : BlockId)
    (rest : List BlockId) : Prop :=
  let ch := a.channel
  tableLaw s ∧ poolLaw s ∧ takesNextAtTable s p c ∧ c.code = 0x40 ∧ parsePost c.params = some a ∧ 1 ≤
    a.payload.length ∧ a.payload.length ≤ 48 ∧ (s.chan ch).state = .opened ∧ (s.chan ch).kind = some .fanout ∧ inSet
    (s.chan ch).posters p = true ∧ (s.chan ch).log.length + (s.chan ch).reserved + 1 ≤ (s.chan ch).depth ∧ (∀ q sub,
    (s.chan ch).sub q = some sub → ∃ f, sub.fan = some f ∧ 1 ≤ f.limit ∧ lag s ch q ≤ f.limit ∧ (sub.suspended =
    false → f.effective = .blocking → lag s ch q + (s.chan ch).reserved + 1 ≤ f.limit)) ∧ (∀ q, (s.chan ch).sub q =
    none → lag s ch q = 0) ∧ (s.chan ch).blocksInUse + 1 ≤ (s.chan ch).quota ∧ s.store.free = b :: rest ∧ (s.record
    r).state = .free ∧ (∀ o, o < r → (s.record o).state ≠ .free)

theorem test_witness_PostOnFanoutListsActivePorts :
    hypPostOnFanoutListsActivePorts (give 0 0x40 [4, 0, 0, 0, 0, 0, 9]) 0 (cmd 0x40 [4, 0, 0, 0, 0, 0, 9]) ⟨4, none,
        none, [9]⟩ 13 14 ((List.finRange 512).drop 15)
    ∧ hypPostOnFanoutListsActivePorts (give 0 0x40 [5, 0, 0, 0, 0, 0, 9]) 0 (cmd 0x40 [5, 0, 0, 0, 0, 0, 9]) ⟨5, none,
        none, [9]⟩ 13 14 ((List.finRange 512).drop 15) := by
  refine ⟨⟨busy_table rfl rfl, busy_pool rfl, by unfold takesNextAtTable takesNext; decide +kernel, ?_, ?_, ?_,
      ?_, ?_, ?_, ?_, ?_, by
        have hb : ∀ q, (((chan4).sub q).all fun sub => decide ((sub.fan.any fun f => decide (1 ≤ f.limit
            ∧ lag busyPart 4 q ≤ f.limit ∧ (sub.suspended = false → f.effective = .blocking →
              lag busyPart 4 q + (chan4).reserved + 1 ≤ f.limit))) = true)) = true := by decide +kernel
        exact fun q sub h => of_any_some (of_all_some (hb q) sub h),
      ?_, ?_, ?_, ?_, ?_⟩,
    ⟨busy_table rfl rfl, busy_pool rfl, by unfold takesNextAtTable takesNext; decide +kernel, ?_, ?_, ?_,
      ?_, ?_, ?_, ?_, ?_, by
        have hb : ∀ q, (((chan5).sub q).all fun sub => decide ((sub.fan.any fun f => decide (1 ≤ f.limit
            ∧ lag busyPart 5 q ≤ f.limit ∧ (sub.suspended = false → f.effective = .blocking →
              lag busyPart 5 q + (chan5).reserved + 1 ≤ f.limit))) = true)) = true := by decide +kernel
        exact fun q sub h => of_any_some (of_all_some (hb q) sub h),
      ?_, ?_, ?_, ?_, ?_⟩⟩ <;> decide +kernel

/-- The hypotheses of StageAppendsLiveEntry. -/
def hypStageAppendsLiveEntry (s : State) (p : PortId) (c : Command) (a : PostParams) (r : RecId) (b : BlockId) (rest :
    List BlockId) : Prop :=
  poolLaw s ∧ takesNextAtTable s p c ∧ c.code = 0x41 ∧ parsePost c.params = some a ∧ (s.port p).staging.length < 8 ∧
    1 ≤ a.payload.length ∧ a.payload.length ≤ 48 ∧ (admission (inlineAllocation p a) (popCommand p s)).1 = .ok ⟨r,
    0⟩ ∧ s.store.free = b :: rest

theorem test_witness_StageAppendsLiveEntry :
    hypStageAppendsLiveEntry (give 0 0x41 [1, 0, 0, 0, 0, 0, 9]) 0 (cmd 0x41 [1, 0, 0, 0, 0, 0, 9]) ⟨1, none, none,
        [9]⟩ 13 14 ((List.finRange 512).drop 15) := by
  refine ⟨busy_pool rfl, by unfold takesNextAtTable takesNext; decide +kernel, ?_, ?_, ?_, ?_, ?_, of_admitted (by
    decide +kernel), ?_⟩ <;> decide +kernel

/-- The hypotheses of CommitSealsWholeGroup. -/
def hypCommitSealsWholeGroup (s : State) (p : PortId) (c : Command) (es : List (RecId × ChanId)) : Prop :=
  tableLaw s ∧ depthLaw s ∧ takesNextAtTable s p c ∧ c.code = 0x42 ∧ c.params = [] ∧ es ≠ [] ∧ (s.port p).staging =
    es.map (fun e => .live e.1 e.2) ∧ (es.map Prod.fst).Nodup ∧ (∀ e ∈ es, (s.record e.1).state = .filling ∧
    (s.record e.1).channel = some e.2 ∧ (s.record e.1).origin = some p ∧ (s.record e.1).form = some .counted ∧
    (s.record e.1).claimant = none ∧ (s.chan e.2).kind.isSome = true) ∧ (∀ e ∈ es, ∀ q sub, (s.chan e.2).kind = some
    .fanout → (s.chan e.2).sub q = some sub → ∃ f, sub.fan = some f ∧ 1 ≤ f.limit ∧ lag s e.2 q ≤ f.limit)

theorem test_witness_CommitSealsWholeGroup :
    hypCommitSealsWholeGroup ((give 0 0x42 []).modPort 0 fun q => { q with staging := [.live 5 1] }) 0 (cmd 0x42 [])
        [(5, 1)]
    ∧ hypCommitSealsWholeGroup ((give 0 0x42 []).modPort 0 fun q => { q with staging := [.live 10 5, .live 5 1] }) 0
        (cmd 0x42 []) [(10, 5), (5, 1)]
    ∧ hypCommitSealsWholeGroup (withRec 7 { fillingRec 4 .counted 7 with ttl := some 9 } (withRec 8 (fillingRec 2
        .counted 8) ((give 0 0x42 []).modPort 0 fun q => { q with staging := [.live 7 4, .live 8 2] }))) 0 (cmd
        0x42 []) [(7, 4), (8, 2)]
    ∧ hypCommitSealsWholeGroup (withRec 9 (fillingRec 5 .counted 9) (((give 0 0x42 []).modPort 0 fun q =>
        { q with staging := [.live 9 5, .live 10 5] }).setChan 5 { chan5 with state := .draining })) 0 (cmd 0x42
        []) [(9, 5), (10, 5)] := by
  refine ⟨⟨busy_table rfl rfl, busy_depth rfl, by unfold takesNextAtTable takesNext; decide +kernel, ?_, ?_, ?_,
      ?_, ?_, of_all ?_, entries_fit ?_⟩,
    ⟨busy_table rfl rfl, busy_depth rfl, by unfold takesNextAtTable takesNext; decide +kernel, ?_, ?_, ?_,
      ?_, ?_, of_all ?_, entries_fit ?_⟩,
    ⟨table_withRec 7 _ (table_withRec 8 _ (busy_table rfl rfl) (by unfold recordFits; decide +kernel) rfl rfl rfl)
      (by unfold recordFits; decide +kernel) rfl rfl rfl, busy_depth rfl, by unfold takesNextAtTable takesNext; decide +kernel, ?_, ?_, ?_,
      ?_, ?_, of_all ?_, entries_fit ?_⟩,
    ⟨table_withRec 9 _ (table_draining 5 (busy_table rfl rfl) (by decide +kernel)) (by unfold recordFits; decide +kernel)
      rfl rfl rfl, depth_withRec 9 _ (depth_draining 5 (busy_depth rfl)), by unfold takesNextAtTable takesNext; decide +kernel, ?_, ?_, ?_,
      ?_, ?_, of_all ?_, entries_fit ?_⟩⟩ <;> decide +kernel

/-- The hypotheses of VoidedCommitAndDiscardFreeGroup. -/
def hypVoidedCommitAndDiscardFreeGroup (s : State) (p : PortId) (c : Command) (i : Instr) : Prop :=
  let list := (s.port p).staging
  let live := liveEntries list
  takesNextAtTable s p c ∧ c.params = [] ∧ list ≠ [] ∧ ((i = .commit p ∧ c.code = 0x42 ∧ ∃ d, .void d ∈ list) ∨ (i =
    .discard p ∧ c.code = 0x43)) ∧ (live.map Prod.fst).Nodup ∧ (∀ e ∈ live, (s.record e.1).state = .filling ∧
    (s.record e.1).channel = some e.2 ∧ (s.record e.1).origin = some p)

theorem test_witness_VoidedCommitAndDiscardFreeGroup :
    hypVoidedCommitAndDiscardFreeGroup ((give 0 0x42 []).modPort 0 fun q =>
        { q with staging := [.live 10 5, .void 3, .live 5 1] }) 0 (cmd 0x42 []) (.commit 0)
    ∧ hypVoidedCommitAndDiscardFreeGroup ((give 0 0x43 []).modPort 0 fun q =>
        { q with staging := [.live 10 5, .void 3] }) 0 (cmd 0x43 []) (.discard 0)
    ∧ hypVoidedCommitAndDiscardFreeGroup ((give 0 0x43 []).modPort 0 fun q => { q with staging := [.live 5 1] }) 0
        (cmd 0x43 []) (.discard 0)
    ∧ hypVoidedCommitAndDiscardFreeGroup (((give 0 0x43 []).modPort 0 fun q =>
        { q with staging := [.live 7 4] }).setChan 4 { chan4 with state := .draining }) 0 (cmd 0x43 [])
        (.discard 0) := by
  refine ⟨⟨by unfold takesNextAtTable takesNext; decide +kernel, ?_, ?_,
      Or.inl ⟨rfl, ?_, 3, ?_⟩, ?_, of_all (?_)⟩,
    ⟨by unfold takesNextAtTable takesNext; decide +kernel, ?_, ?_,
      Or.inr (?_), ?_, of_all (?_)⟩,
    ⟨by unfold takesNextAtTable takesNext; decide +kernel, ?_, ?_,
      Or.inr (?_), ?_, of_all (?_)⟩,
    ⟨by unfold takesNextAtTable takesNext; decide +kernel, ?_, ?_,
      Or.inr (?_), ?_, of_all (?_)⟩⟩ <;> decide +kernel

/-- The hypotheses of FetchPeekReadsAndKeeps. -/
def hypFetchPeekReadsAndKeeps (s : State) (p : PortId) (c : Command) (a : FetchParams) (r : RecId) : Prop :=
  let ch := a.channel
  let x := s.record r
  takesNextAtTable s p c ∧ c.code = 0x50 ∧ parseFetch c.params = some a ∧ a.consume = false ∧ (s.chan ch).state ≠
    .unused ∧ (s.chan ch).kind ≠ none ∧ ((s.chan ch).kind = some .fanout → (s.chan ch).active p = true) ∧
    fetchTarget s ch p = some r ∧ x.state = .sealed ∧ a.offset < x.length

theorem test_witness_FetchPeekReadsAndKeeps :
    hypFetchPeekReadsAndKeeps (give 0 0x50 [0, 0, 2, 0, 48]) 0 (cmd 0x50 [0, 0, 2, 0, 48]) ⟨0, false, 2, 48⟩ 1
    ∧ hypFetchPeekReadsAndKeeps (give 0 0x50 [1, 0, 0, 0, 1]) 0 (cmd 0x50 [1, 0, 0, 0, 1]) ⟨1, false, 0, 1⟩ 3
    ∧ hypFetchPeekReadsAndKeeps (give 0 0x50 [2, 0, 0, 0, 1]) 0 (cmd 0x50 [2, 0, 0, 0, 1]) ⟨2, false, 0, 1⟩ 4 := by
  refine ⟨?_, ?_, ?_⟩
  all_goals
    refine ⟨by unfold takesNextAtTable takesNext; decide +kernel, ?_, ?_, ?_, ?_, ?_, ?_, ?_, ?_, ?_⟩
      <;> decide +kernel

/-- The hypotheses of FetchConsumeLetsTargetGo. -/
def hypFetchConsumeLetsTargetGo (s : State) (p : PortId) (c : Command) (a : FetchParams) (r : RecId) : Prop :=
  let ch := a.channel
  let damaged := (s.record r).damaged
      || !(touchedBlocks (s.record r).chain a.offset (min a.count ((s.record r).length - a.offset))).all
          s.store.blockAgrees
  let x := { s.record r with damaged := damaged }
  tableLaw s ∧ takesNextAtTable s p c ∧ c.code = 0x50 ∧ parseFetch c.params = some a ∧ a.consume = true ∧ (s.chan
    ch).state ≠ .unused ∧ (s.chan ch).kind ≠ none ∧ (((s.chan ch).kind = some .fanout ∨ (s.chan ch).kind = some
    .latest → (s.chan ch).active p = true)) ∧ ((s.chan ch).kind = some .fanout → hasReadOn s ch p = false) ∧
    fetchTarget s ch p = some r ∧ a.offset < x.length

theorem test_witness_FetchConsumeLetsTargetGo :
    hypFetchConsumeLetsTargetGo (give 0 0x50 [0, 1, 0, 0, 1]) 0 (cmd 0x50 [0, 1, 0, 0, 1]) ⟨0, true, 0, 1⟩ 1
    ∧ hypFetchConsumeLetsTargetGo (give 0 0x50 [1, 1, 2, 0, 48]) 0 (cmd 0x50 [1, 1, 2, 0, 48]) ⟨1, true, 2, 48⟩ 3
    ∧ hypFetchConsumeLetsTargetGo (give 0 0x50 [2, 1, 0, 0, 1]) 0 (cmd 0x50 [2, 1, 0, 0, 1]) ⟨2, true, 0, 1⟩ 4
    ∧ hypFetchConsumeLetsTargetGo ((give 1 0x50 [7, 1, 0, 0, 1]).setChan 7 { chan7 with state := .draining }) 1 (cmd
        0x50 [7, 1, 0, 0, 1]) ⟨7, true, 0, 1⟩ 14
    ∧ hypFetchConsumeLetsTargetGo ((give 0 0x50 [1, 1, 2, 0, 48]).setChan 1 { chan1 with state := .draining }) 0 (cmd
        0x50 [1, 1, 2, 0, 48]) ⟨1, true, 2, 48⟩ 3 := by
  refine ⟨?_, ?_, ?_, ?_, ?_⟩
  all_goals
    refine ⟨by first | exact busy_table rfl rfl | exact table_draining _ (busy_table rfl rfl) (by decide +kernel),
      by unfold takesNextAtTable takesNext; decide +kernel, ?_, ?_, ?_, ?_, ?_, ?_, ?_, ?_, ?_⟩ <;> decide +kernel

/-- The hypotheses of FetchRefusals. -/
def hypFetchRefusals (s : State) (p : PortId) (c : Command) (a : FetchParams) (i : Instr) (st : Status) : Prop :=
  let ch := a.channel
  let needsSub := (s.chan ch).kind = some .fanout ∨ ((s.chan ch).kind = some .latest ∧ a.consume = true)
  let subFits := needsSub → (s.chan ch).active p = true
  let readFits := (s.chan ch).kind = some .fanout → a.consume = true → hasReadOn s ch p = false
  takesNextAtTable s p c ∧ c.code = 0x50 ∧ rowFor p c = some i ∧ parseFetch c.params = some a ∧ (s.chan ch).state ≠
    .unused ∧ ((needsSub ∧ (s.chan ch).active p = false ∧ st = .nosub) ∨ (subFits ∧ (s.chan ch).kind = some .fanout
    ∧ a.consume = true ∧ hasReadOn s ch p = true ∧ st = .busy) ∨ (subFits ∧ readFits ∧ fetchTarget s ch p = none ∧
    st = .empty) ∨ (subFits ∧ readFits ∧ (∃ r, fetchTarget s ch p = some r ∧ (s.record r).length ≤ a.offset) ∧ st =
    .limit))

theorem test_witness_FetchRefusals :
    hypFetchRefusals (give 2 0x50 [0, 0, 0, 0, 1]) 2 (cmd 0x50 [0, 0, 0, 0, 1]) ⟨0, false, 0, 1⟩ (.fetchPeek 2)
        .nosub
    ∧ hypFetchRefusals (give 1 0x50 [0, 1, 0, 0, 1]) 1 (cmd 0x50 [0, 1, 0, 0, 1]) ⟨0, true, 0, 1⟩ (.fetchConsume 1)
        .busy
    ∧ hypFetchRefusals (give 0 0x50 [4, 0, 0, 0, 1]) 0 (cmd 0x50 [4, 0, 0, 0, 1]) ⟨4, false, 0, 1⟩ (.fetchPeek 0)
        .empty
    ∧ hypFetchRefusals (give 0 0x50 [1, 1, 3, 0, 1]) 0 (cmd 0x50 [1, 1, 3, 0, 1]) ⟨1, true, 3, 1⟩ (.fetchConsume 0)
        .limit := by
  refine ⟨?_, ?_, ?_, ?_⟩
  all_goals
    refine ⟨by unfold takesNextAtTable takesNext; decide +kernel, ?_, ?_, ?_, ?_, ?_⟩ <;> decide +kernel

/-- The hypotheses of SkipDropsOldestListed. -/
def hypSkipDropsOldestListed (s : State) (p : PortId) (c : Command) (a : SkipParams) : Prop :=
  let ch := a.channel
  tableLaw s ∧ takesNextAtTable s p c ∧ c.code = 0x51 ∧ parseSkip c.params = some a ∧ (s.chan ch).state ≠ .unused ∧
    (s.chan ch).kind = some .fanout ∧ (s.chan ch).active p = true ∧ hasReadOn s ch p = false

theorem test_witness_SkipDropsOldestListed :
    hypSkipDropsOldestListed (give 0 0x51 [0, 1]) 0 (cmd 0x51 [0, 1]) ⟨0, 1⟩
    ∧ hypSkipDropsOldestListed (give 0 0x51 [0, 64]) 0 (cmd 0x51 [0, 64]) ⟨0, 64⟩
    ∧ hypSkipDropsOldestListed ((give 1 0x51 [7, 1]).setChan 7 { chan7 with state := .draining }) 1 (cmd 0x51 [7, 1])
        ⟨7, 1⟩ := by
  refine ⟨?_, ?_, ?_⟩
  all_goals
    refine ⟨by first | exact busy_table rfl rfl | exact table_draining _ (busy_table rfl rfl) (by decide +kernel),
      by unfold takesNextAtTable takesNext; decide +kernel, ?_, ?_, ?_, ?_, ?_, ?_⟩ <;> decide +kernel

/-- The hypotheses of OpenPostOpensWrite. -/
def hypOpenPostOpensWrite (s : State) (p : PortId) (c : Command) (a : OpenPostParams) : Prop :=
  let ch := a.channel
  takesNextAtTable s p c ∧ c.code = 0x60 ∧ parseOpenPost c.params = some a ∧ (s.chan ch).state ≠ .unused

theorem test_witness_OpenPostOpensWrite :
    hypOpenPostOpensWrite (give 0 0x60 [1, 0, 0, 0, 1, 0, 0, 0, 0]) 0 (cmd 0x60 [1, 0, 0, 0, 1, 0, 0, 0, 0]) ⟨1, 0,
        64, none, none⟩
    ∧ hypOpenPostOpensWrite (giveStream 0 (writing 6 1 .openEnded 3 none) 0x60 [1, 0, 0, 16, 0, 0, 0, 0, 0]) 0 (cmd
        0x60 [1, 0, 0, 16, 0, 0, 0, 0, 0]) ⟨1, 4096, 0, none, none⟩ := by
  refine ⟨?_, ?_⟩
  all_goals
    refine ⟨by unfold takesNextAtTable takesNext; decide +kernel, ?_, ?_, ?_⟩ <;> decide +kernel

/-- The hypotheses of OpenFetchHoldsTarget. -/
def hypOpenFetchHoldsTarget (s : State) (p : PortId) (c : Command) (a : OpenFetchParams) (r : RecId) : Prop :=
  let ch := a.channel
  let x := s.record r
  takesNextAtTable s p c ∧ c.code = 0x61 ∧ parseOpenFetch c.params = some a ∧ (s.chan ch).state ≠ .unused ∧
    (((s.chan ch).kind = some .fanout ∨ ((s.chan ch).kind = some .latest ∧ a.consume = true) → (s.chan ch).active p
    = true)) ∧ fetchTarget s ch p = some r ∧ x.state = .sealed ∧ inSet x.holders p = false

theorem test_witness_OpenFetchHoldsTarget :
    hypOpenFetchHoldsTarget (give 0 0x61 [0, 1, 2]) 0 (cmd 0x61 [0, 1, 2]) ⟨0, true, 128⟩ 1
    ∧ hypOpenFetchHoldsTarget (give 0 0x61 [1, 0, 0]) 0 (cmd 0x61 [1, 0, 0]) ⟨1, false, 0⟩ 3
    ∧ hypOpenFetchHoldsTarget (give 2 0x61 [2, 0, 0]) 2 (cmd 0x61 [2, 0, 0]) ⟨2, false, 0⟩ 4
    ∧ hypOpenFetchHoldsTarget (giveStream 0 (writing 6 1 .openEnded 3 none) 0x61 [1, 0, 0]) 0 (cmd 0x61 [1, 0, 0]) ⟨1,
        false, 0⟩ 3 := by
  refine ⟨?_, ?_, ?_, ?_⟩
  all_goals
    refine ⟨by unfold takesNextAtTable takesNext; decide +kernel, ?_, ?_, ?_, ?_, ?_, ?_, ?_⟩ <;> decide +kernel

/-- The hypotheses of StreamEndSealsOpenWrite. -/
def hypStreamEndSealsOpenWrite (s : State) (p : PortId) (c : Command) (r : RecId) (ch : ChanId) (kind : Kind) : Prop
    :=
  let x := (s.port p).stream
  tableLaw s ∧ depthLaw s ∧ (∀ q f, (s.chan ch).fanSub q = some f → 1 ≤ f.limit) ∧ takesNextAtTable s p c ∧ c.code =
    0x62 ∧ c.params = [] ∧ x.state = .writing ∧ x.mode = some .openEnded ∧ 0 < x.byteCount ∧ x.record = some r ∧
    x.channel = some ch ∧ (s.record r).state = .filling ∧ (s.record r).channel = some ch ∧ (s.record r).origin =
    some p ∧ (s.record r).form = some .openEnded ∧ 0 < (s.record r).length ∧ (s.chan ch).kind = some kind

theorem test_witness_StreamEndSealsOpenWrite :
    hypStreamEndSealsOpenWrite (giveStream 0 (writing 6 1 .openEnded 3 none) 0x62 []) 0 (cmd 0x62 []) 6 1 .queue
    ∧ hypStreamEndSealsOpenWrite (giveStream 0 (writing 7 4 .openEnded 3 none) 0x62 []) 0 (cmd 0x62 []) 7 4 .fanout
    ∧ hypStreamEndSealsOpenWrite (giveStream 0 (writing 8 2 .openEnded 3 none) 0x62 []) 0 (cmd 0x62 []) 8 2 .latest
    ∧ hypStreamEndSealsOpenWrite (giveStream 0 (writing 9 5 .openEnded 3 none) 0x62 []) 0 (cmd 0x62 []) 9 5 .fanout := by
  refine ⟨?_, ?_, ?_, ?_⟩
  all_goals
    refine ⟨busy_table rfl rfl, busy_depth rfl, busy_limits _ rfl _,
      by unfold takesNextAtTable takesNext; decide +kernel, ?_, ?_, ?_, ?_, ?_, ?_, ?_, ?_, ?_, ?_, ?_, ?_, ?_⟩
      <;> decide +kernel

/-- The hypotheses of StreamEndEndsRead. -/
def hypStreamEndEndsRead (s : State) (p : PortId) (c : Command) (r : RecId) (ch : ChanId) (kind : Kind) : Prop :=
  let x := (s.port p).stream
  let m := s.record r
  tableLaw s ∧ takesNextAtTable s p c ∧ c.code = 0x62 ∧ c.params = [] ∧ x.state = .readDone ∧ x.record = some r ∧
    x.channel = some ch ∧ (m.state = .sealed ∨ m.state = .withdrawn) ∧ m.channel = some ch ∧ inSet m.holders p =
    true ∧ (m.state = .sealed → kind = .queue → m.claimant = some p) ∧ (s.chan ch).state = .opened ∧ (s.chan
    ch).kind = some kind

theorem test_witness_StreamEndEndsRead :
    hypStreamEndEndsRead (giveStream 1 (reading .readDone 2 1 true 3 0 3) 0x62 []) 1 (cmd 0x62 []) 2 1 .queue
    ∧ hypStreamEndEndsRead (giveStream 1 (reading .readDone 2 1 false 3 0 3) 0x62 []) 1 (cmd 0x62 []) 2 1 .queue
    ∧ hypStreamEndEndsRead (giveStream 1 (reading .readDone 1 0 true 3 0 3) 0x62 []) 1 (cmd 0x62 []) 1 0 .fanout
    ∧ hypStreamEndEndsRead (giveStream 1 (reading .readDone 1 0 false 3 0 3) 0x62 []) 1 (cmd 0x62 []) 1 0 .fanout
    ∧ hypStreamEndEndsRead (giveStream 0 (reading .readDone 11 6 true 3 0 3) 0x62 []) 0 (cmd 0x62 []) 11 6 .fanout
    ∧ hypStreamEndEndsRead (giveStream 0 (reading .readDone 4 2 true 3 0 3) 0x62 []) 0 (cmd 0x62 []) 4 2 .latest
    ∧ hypStreamEndEndsRead (giveStream 0 (reading .readDone 12 1 true 3 0 3) 0x62 []) 0 (cmd 0x62 []) 12 1 .queue := by
  refine ⟨?_, ?_, ?_, ?_, ?_, ?_, ?_⟩
  all_goals
    refine ⟨busy_table rfl rfl, by unfold takesNextAtTable takesNext; decide +kernel, ?_, ?_, ?_, ?_, ?_, ?_, ?_,
      ?_, ?_, ?_, ?_⟩ <;> decide +kernel

/-- The hypotheses of StreamEndRefusals. -/
def hypStreamEndRefusals (s : State) (p : PortId) (c : Command) (st : Status) : Prop :=
  takesNext s p c ∧ (s.port p).record.state = .present ∧ c.code = 0x62 ∧ c.params = [] ∧ (((s.port p).stream.state =
    .idle ∧ st = .order) ∨ ((s.port p).stream.state = .writing ∧ (s.port p).stream.mode = some .counted ∧ st =
    .order) ∨ ((s.port p).stream.state = .reading ∧ st = .order) ∨ ((s.port p).stream.state = .writing ∧ (s.port
    p).stream.mode = some .openEnded ∧ (s.port p).stream.byteCount = 0 ∧ st = .length))

theorem test_witness_StreamEndRefusals :
    hypStreamEndRefusals (give 0 0x62 []) 0 (cmd 0x62 []) .order
    ∧ hypStreamEndRefusals (giveStream 0 (writing 5 1 .counted 0 (some 3)) 0x62 []) 0 (cmd 0x62 []) .order
    ∧ hypStreamEndRefusals (giveStream 1 (reading .reading 2 1 true 0 3 0) 0x62 []) 1 (cmd 0x62 []) .order
    ∧ hypStreamEndRefusals (giveStream 0 (writing 6 1 .openEnded 0 none) 0x62 []) 0 (cmd 0x62 []) .length := by
  refine ⟨?_, ?_, ?_, ?_⟩
  all_goals
    refine ⟨by unfold takesNext; decide +kernel, ?_, ?_, ?_, ?_⟩ <;> decide +kernel

/-- The hypotheses of StreamStopHandsOverCleanup. -/
def hypStreamStopHandsOverCleanup (s : State) (p : PortId) (c : Command) (_r : RecId) (_ch : ChanId) : Prop :=
  takesNext s p c ∧ c.code = 0x63 ∧ c.params = [] ∧ (s.port p).record.state = .present

theorem test_witness_StreamStopHandsOverCleanup :
    hypStreamStopHandsOverCleanup (give 0 0x63 []) 0 (cmd 0x63 []) 0 0
    ∧ hypStreamStopHandsOverCleanup (giveStream 0 (writing 6 1 .openEnded 3 none) 0x63 []) 0 (cmd 0x63 []) 6 1
    ∧ hypStreamStopHandsOverCleanup (giveStream 1 (reading .readDone 2 1 true 3 0 3) 0x63 []) 1 (cmd 0x63 []) 2 1
    ∧ hypStreamStopHandsOverCleanup (giveStream 1 (reading .reading 1 0 true 0 3 0) 0x63 []) 1 (cmd 0x63 []) 1 0 := by
  refine ⟨?_, ?_, ?_, ?_⟩
  all_goals
    refine ⟨by unfold takesNext; decide +kernel, ?_, ?_, ?_⟩ <;> decide +kernel

/-- The hypotheses of StreamQueryReportsContext. -/
def hypStreamQueryReportsContext (s : State) (p : PortId) (c : Command) : Prop :=
  takesNext s p c ∧ c.code = 0x64 ∧ c.params = [] ∧ (s.port p).record.state = .present

theorem test_witness_StreamQueryReportsContext :
    hypStreamQueryReportsContext (give 0 0x64 []) 0 (cmd 0x64 [])
    ∧ hypStreamQueryReportsContext (giveStream 0 (writing 6 1 .openEnded 3 none) 0x64 []) 0 (cmd 0x64 [])
    ∧ hypStreamQueryReportsContext (giveStream 1 (reading .reading 2 1 false 0 3 0) 0x64 []) 1 (cmd 0x64 []) := by
  refine ⟨?_, ?_, ?_⟩
  all_goals
    refine ⟨by unfold takesNext; decide +kernel, ?_, ?_, ?_⟩ <;> decide +kernel

/-- The hypotheses of DataOutWritesChunk. -/
def hypDataOutWritesChunk (s : State) (p : PortId) (rest : List Byte) (chunk : Byte) (data : List Byte) (r : RecId)
    (ch : ChanId) (b : BlockId) (others : List BlockId) : Prop :=
  let x := (s.port p).stream
  let m := s.record r
  let last := x.byteCount + data.length
  let counted := x.mode = some .counted ∧ m.form = some .counted ∧ (∃ left, x.remaining = some left
      ∧ data.length < left ∧ x.byteCount + left = m.length) ∧ m.length ≤ 64 * m.chain.length
  let fits := x.mode = some .openEnded ∧ m.form = some .openEnded ∧ x.remaining = none ∧ last ≤ 4096
      ∧ last ≤ 64 * m.chain.length
  let grows := x.mode = some .openEnded ∧ m.form = some .openEnded ∧ x.remaining = none ∧ last ≤ 4096
      ∧ 64 * m.chain.length < last ∧ x.byteCount ≤ 64 * m.chain.length ∧ (s.port p).toTable = []
      ∧ (s.chan ch).blocksInUse + 1 ≤ (s.chan ch).quota ∧ s.store.free = b :: others ∧ b ∉ m.chain
  poolLaw s ∧ takesFrame s p ∧ parseDataOut rest = some (chunk, data) ∧ (s.port p).record.state ≠ .paused ∧ x.state
    = .writing ∧ x.record = some r ∧ x.channel = some ch ∧ x.isResend chunk = false ∧ chunk = x.expected ∧ m.state =
    .filling ∧ m.origin = some p ∧ m.channel = some ch ∧ m.chain.Nodup ∧ (s.chan ch).state ≠ .unused ∧ (counted ∨
    fits ∨ grows)

theorem test_witness_DataOutWritesChunk :
    hypDataOutWritesChunk (begunAt 0 (writing 5 1 .counted 0 (some 3))) 0 (dataOutBytes 5 [9]) 5 [9] 5 1 13 []
    ∧ hypDataOutWritesChunk (begunAt 0 (writing 6 1 .openEnded 62 none)) 0 (dataOutBytes 5 [9, 8]) 5 [9, 8] 6 1 13 []
    ∧ hypDataOutWritesChunk (begunAt 0 (writing 6 1 .openEnded 63 none)) 0 (dataOutBytes 5 [9, 8]) 5 [9, 8] 6 1 14
        ((List.finRange 512).drop 15) := by
  refine ⟨?_, ?_, ?_⟩
  all_goals
    refine ⟨busy_pool rfl, by unfold takesFrame; decide +kernel, ?_, ?_, ?_, ?_, ?_, ?_, ?_, ?_, ?_, ?_, ?_, ?_, ?_⟩
      <;> decide +kernel

/-- The hypotheses of DataOutLastByteSeals. -/
def hypDataOutLastByteSeals (s : State) (p : PortId) (rest : List Byte) (chunk : Byte) (data : List Byte) (r : RecId)
    (ch : ChanId) (kind : Kind) : Prop :=
  let x := (s.port p).stream
  let m := s.record r
  tableLaw s ∧ depthLaw s ∧ (∀ q f, (s.chan ch).fanSub q = some f → 1 ≤ f.limit) ∧ poolLaw s ∧ takesFrame s p ∧
    parseDataOut rest = some (chunk, data) ∧ (s.port p).toTable = [] ∧ (s.port p).record.state ≠ .paused ∧ x.state =
    .writing ∧ x.record = some r ∧ x.channel = some ch ∧ x.isResend chunk = false ∧ chunk = x.expected ∧ x.mode =
    some .counted ∧ x.remaining = some data.length ∧ m.state = .filling ∧ m.origin = some p ∧ m.channel = some ch ∧
    m.form = some .counted ∧ m.chain.Nodup ∧ (s.chan ch).kind = some kind ∧ x.byteCount + data.length = m.length ∧
    m.length ≤ 64 * m.chain.length

theorem test_witness_DataOutLastByteSeals :
    hypDataOutLastByteSeals (begunAt 0 (writing 5 1 .counted 0 (some 3))) 0 (dataOutBytes 5 [9, 8, 7]) 5 [9, 8, 7] 5
        1 .queue
    ∧ hypDataOutLastByteSeals (begunAt 0 (writing 10 5 .counted 2 (some 1))) 0 (dataOutBytes 5 [9]) 5 [9] 10 5 .fanout := by
  refine ⟨?_, ?_⟩
  all_goals
    refine ⟨busy_table rfl rfl, busy_depth rfl, busy_limits _ rfl _, busy_pool rfl,
      by unfold takesFrame; decide +kernel, ?_, ?_, ?_, ?_, ?_, ?_, ?_, ?_, ?_, ?_, ?_, ?_, ?_, ?_, ?_, ?_, ?_, ?_⟩
      <;> decide +kernel

/-- The hypotheses of DataOutRejections. -/
def hypDataOutRejections (s : State) (p : PortId) (rest : List Byte) (result : FrameResult) (why : Option Rejection) :
    Prop :=
  let x := (s.port p).stream
  let now := (s.port p).record.state
  ((refusesFrame s p ∧ result = .refused ∧ why = x.rejection) ∨ (takesFrame s p ∧ parseDataOut rest = none ∧ result
    = .check ∧ why = x.rejection) ∨ (∃ chunk data, takesFrame s p ∧ parseDataOut rest = some (chunk, data) ∧ ((now =
    .paused ∧ result = .rejected ∧ why = some .paused) ∨ (now ≠ .paused ∧ x.state ≠ .writing ∧ result = .rejected ∧
    why = some .state) ∨ (now ≠ .paused ∧ x.state = .writing ∧ chunk = x.expected - 1 ∧ x.lastLength ≠ 0 ∧ result =
    .accepted ∧ why = x.rejection) ∨ (now ≠ .paused ∧ x.state = .writing ∧ chunk ≠ x.expected ∧ (chunk ≠ x.expected
    - 1 ∨ x.lastLength = 0) ∧ result = .rejected ∧ why = some .order) ∨ (now ≠ .paused ∧ x.state = .writing ∧ chunk
    = x.expected ∧ x.record.isSome = true ∧ x.channel.isSome = true ∧ ((∃ left, x.mode = some .counted ∧ x.remaining
    = some left ∧ left < data.length) ∨ (x.mode = some .openEnded ∧ 4096 < x.byteCount + data.length)) ∧ result =
    .rejected ∧ why = some .length) ∨ (∃ r ch, now ≠ .paused ∧ x.state = .writing ∧ chunk = x.expected ∧ x.record =
    some r ∧ x.channel = some ch ∧ x.mode = some .openEnded ∧ x.byteCount + data.length ≤ 4096 ∧ 64 * (s.record
    r).chain.length < x.byteCount + data.length ∧ (s.record r).state = .filling ∧ (s.record r).channel = some ch ∧
    (s.record r).origin = some p ∧ (s.chan ch).state ≠ .unused ∧ (s.port p).toTable = [] ∧ ((s.chan ch).quota <
    (s.chan ch).blocksInUse + 1 ∨ s.store.free = []) ∧ result = .rejected ∧ why = some .nospace))))

theorem test_witness_DataOutRejections :
    hypDataOutRejections { begunAt 0 {} with phase := .initialising } 0 [] .refused none
    ∧ hypDataOutRejections (begunAt 0 {}) 0 [6] .check none
    ∧ hypDataOutRejections ((begunAt 0 (writing 5 1 .counted 0 (some 3))).modPort 0 fun q =>
        { q with record := { q.record with state := .paused } }) 0 (dataOutBytes 5 [9]) .rejected (some .paused)
    ∧ hypDataOutRejections (begunAt 0 {}) 0 (dataOutBytes 5 [9]) .rejected (some .state)
    ∧ hypDataOutRejections (begunAt 0 { writing 5 1 .counted 0 (some 3) with lastLength := 1 }) 0 (dataOutBytes 4 [9])
        .accepted none
    ∧ hypDataOutRejections (begunAt 0 (writing 5 1 .counted 0 (some 3))) 0 (dataOutBytes 4 [9]) .rejected (some
        .order)
    ∧ hypDataOutRejections (begunAt 0 (writing 5 1 .counted 2 (some 1))) 0 (dataOutBytes 5 [9, 8]) .rejected (some
        .length)
    ∧ hypDataOutRejections (begunAt 0 (writing 6 1 .openEnded 4096 none)) 0 (dataOutBytes 5 [9]) .rejected (some
        .length)
    ∧ hypDataOutRejections ((begunAt 0 (writing 6 1 .openEnded 64 none)).setChan 1 { chan1 with quota := 5 }) 0
        (dataOutBytes 5 [9]) .rejected (some .nospace) := by
  refine ⟨Or.inl ⟨by unfold refusesFrame; decide +kernel, ?_⟩,
    Or.inr (Or.inl ⟨by unfold takesFrame; decide +kernel, ?_⟩),
    Or.inr (Or.inr ⟨5, [9], by unfold takesFrame; decide +kernel, ?_, Or.inl (?_)⟩),
    Or.inr (Or.inr ⟨5, [9], by unfold takesFrame; decide +kernel, ?_, Or.inr (Or.inl (?_))⟩),
    Or.inr (Or.inr ⟨4, [9], by unfold takesFrame; decide +kernel, ?_, Or.inr (Or.inr (Or.inl (?_)))⟩),
    Or.inr (Or.inr ⟨4, [9], by unfold takesFrame; decide +kernel, ?_, Or.inr (Or.inr (Or.inr (Or.inl (?_))))⟩),
    Or.inr (Or.inr ⟨5, [9, 8], by unfold takesFrame; decide +kernel, ?_, Or.inr (Or.inr (Or.inr (Or.inr (Or.inl ⟨?_, ?_, ?_, ?_, ?_, Or.inl ⟨1, ?_⟩, ?_⟩))))⟩),
    Or.inr (Or.inr ⟨5, [9], by unfold takesFrame; decide +kernel, ?_, Or.inr (Or.inr (Or.inr (Or.inr (Or.inl ⟨?_, ?_, ?_, ?_, ?_, Or.inr (?_), ?_⟩))))⟩),
    Or.inr (Or.inr ⟨5, [9], by unfold takesFrame; decide +kernel, ?_, Or.inr (Or.inr (Or.inr (Or.inr (Or.inr ⟨6, 1, ?_⟩))))⟩)⟩ <;> decide +kernel

/-- The hypotheses of DataInServesChunk. -/
def hypDataInServesChunk (s : State) (p : PortId) (chunk complement : Byte) (r : RecId) (ch : ChanId) (left : Nat) :
    Prop :=
  let x := (s.port p).stream
  let m := s.record r
  let again := x.isResend chunk
  takesFrame s p ∧ complement = ~~~chunk ∧ (s.port p).record.state ≠ .paused ∧ ((x.state = .reading ∧ again = false
    ∧ chunk = x.expected) ∨ ((x.state = .reading ∨ x.state = .readDone) ∧ again = true ∧ x.lastLength ≤
    x.byteCount)) ∧ x.record = some r ∧ x.channel = some ch ∧ x.remaining = some left ∧ x.byteCount + left =
    m.length ∧ (m.state = .sealed ∨ m.state = .withdrawn)

theorem test_witness_DataInServesChunk :
    hypDataInServesChunk (begunAt 1 (reading .reading 2 1 false 0 3 0)) 1 5 (~~~5) 2 1 3
    ∧ hypDataInServesChunk (begunAt 1 (reading .readDone 2 1 false 3 0 3)) 1 4 (~~~4) 2 1 0 := by
  refine ⟨?_, ?_⟩
  all_goals
    refine ⟨by unfold takesFrame; decide +kernel, ?_, ?_, ?_, ?_, ?_, ?_, ?_, ?_⟩ <;> decide +kernel

/-- The hypotheses of DataInRejections. -/
def hypDataInRejections (s : State) (p : PortId) (chunk complement : Byte) (result : FrameResult) (why : Option
    Rejection) : Prop :=
  let x := (s.port p).stream
  let now := (s.port p).record.state
  takesFrame s p ∧ ((complement ≠ ~~~chunk ∧ result = .check ∧ why = x.rejection) ∨ (complement = ~~~chunk ∧ result
    = .rejected ∧ ((now = .paused ∧ why = some .paused) ∨ (now ≠ .paused ∧ (x.state = .idle ∨ x.state = .writing) ∧
    why = some .state) ∨ (now ≠ .paused ∧ (x.state = .reading ∨ x.state = .readDone) ∧ x.record.isSome = true ∧
    (chunk ≠ x.expected ∨ x.state = .readDone) ∧ (chunk ≠ x.expected - 1 ∨ x.lastLength = 0) ∧ why = some .order))))

theorem test_witness_DataInRejections :
    hypDataInRejections (begunAt 1 (reading .reading 2 1 false 0 3 0)) 1 5 5 .check none
    ∧ hypDataInRejections ((begunAt 1 (reading .reading 2 1 false 0 3 0)).modPort 1 fun q =>
        { q with record := { q.record with state := .paused } }) 1 5 (~~~5) .rejected (some .paused)
    ∧ hypDataInRejections (begunAt 0 {}) 0 0 255 .rejected (some .state)
    ∧ hypDataInRejections (begunAt 1 (reading .reading 2 1 false 0 3 0)) 1 4 (~~~4) .rejected (some .order)
    ∧ hypDataInRejections (begunAt 1 (reading .readDone 2 1 false 3 0 3)) 1 5 (~~~5) .rejected (some .order) := by
  refine ⟨?_, ?_, ?_, ?_, ?_⟩
  all_goals
    refine ⟨by unfold takesFrame; decide +kernel, ?_⟩ <;> decide +kernel

/-- The hypotheses of ChipSelectFallLoadsStatus. -/
def hypChipSelectFallLoadsStatus (s : State) (p : PortId) : Prop :=
  s.phase ≠ .held ∧ (s.port p).prstLow = false ∧ (s.port p).csLow = false

theorem test_witness_ChipSelectFallLoadsStatus :
    hypChipSelectFallLoadsStatus busyPart 0
    ∧ hypChipSelectFallLoadsStatus { busyPart with phase := .initialising } 3 := by
  refine ⟨?_, ?_⟩
  all_goals
    refine ⟨?_, ?_, ?_⟩ <;> decide +kernel

/-- The hypotheses of ChipSelectRiseEndsFrame. -/
def hypChipSelectRiseEndsFrame (s : State) (p : PortId) (cut : DataInCut) (result : Option FrameResult) (bytes : List
    Byte) : Prop :=
  let l := (s.port p).link
  let carried := match cut with
      | .uncut => []
      | .afterType => [0x04]
      | .afterNumber chunk => [0x04, chunk]
  (s.port p).csLow = true ∧ ((l.transaction = .idle ∧ result = none ∧ bytes = []) ∨ ((l.transaction = .begun ∨
    l.transaction = .early) ∧ cut = .uncut ∧ result = none ∧ bytes = []) ∨ (takesFrame s p ∧ cut ≠ .uncut ∧ result =
    some .check ∧ bytes = carried) ∨ (refusesFrame s p ∧ cut ≠ .uncut ∧ result = some .refused ∧ bytes = carried) ∨
    (l.transaction = .noneFrame ∧ result = some .accepted ∧ bytes = []) ∨ ((∃ r standing, l.transaction = .response
    r standing) ∧ result = some .check ∧ bytes = []) ∨ (l.transaction = .decided result ∧ bytes = []))

theorem test_witness_ChipSelectRiseEndsFrame :
    hypChipSelectRiseEndsFrame (at_ 0 fun q =>
        { q with csLow := true, link := { q.link with transaction := .idle, responses := [⟨7, 0x12, .ok, []⟩] } })
        0 .uncut none []
    ∧ hypChipSelectRiseEndsFrame (at_ 0 fun q =>
        { q with csLow := true, link := { q.link with transaction := .begun, responses := [⟨7, 0x12, .ok, []⟩] } })
        0 .uncut none []
    ∧ hypChipSelectRiseEndsFrame (at_ 0 fun q =>
        { q with csLow := true, link := { q.link with transaction := .begun, responses := [⟨7, 0x12, .ok, []⟩] } })
        0 .afterType (some .check) [4]
    ∧ hypChipSelectRiseEndsFrame { begunAt 0 {} with phase := .initialising } 0 (.afterNumber 7) (some .refused) [4,
        7]
    ∧ hypChipSelectRiseEndsFrame (at_ 0 fun q =>
        { q with csLow := true, link := { q.link with transaction := .noneFrame, responses := [⟨7, 0x12, .ok, []⟩] } })
        0 .uncut (some .accepted) []
    ∧ hypChipSelectRiseEndsFrame (at_ 0 fun q =>
        { q with csLow := true, link := { q.link with transaction := .begun, responses := [⟨7, 0x12, .ok, []⟩] } })
        0 (.afterNumber 7) (some .check) [4, 7]
    ∧ hypChipSelectRiseEndsFrame (at_ 0 fun q =>
        { q with csLow := true, link := { q.link with transaction := .response ⟨7, 0x12, .ok, []⟩ true, responses := [⟨7, 0x12, .ok, []⟩] } })
        0 .uncut (some .check) []
    ∧ hypChipSelectRiseEndsFrame (at_ 0 fun q =>
        { q with csLow := true, link := { q.link with transaction := .decided none, responses := [⟨7, 0x12, .ok, []⟩] } })
        0 .uncut none []
    ∧ hypChipSelectRiseEndsFrame (at_ 0 fun q =>
        { q with csLow := true, link := { q.link with transaction := .early } }) 0 .uncut none []
    ∧ hypChipSelectRiseEndsFrame (at_ 0 fun q =>
        { q with csLow := true, link := { q.link with transaction := .early } }) 0 .afterType (some .refused)
        [4] := by
  refine ⟨⟨?_, Or.inl (?_)⟩,
    ⟨?_, Or.inr (Or.inl (?_))⟩,
    ⟨?_, Or.inr (Or.inr (Or.inl ⟨by unfold takesFrame; decide +kernel, ?_⟩))⟩,
    ⟨?_, Or.inr (Or.inr (Or.inr (Or.inl ⟨by unfold refusesFrame; decide +kernel, ?_⟩)))⟩,
    ⟨?_, Or.inr (Or.inr (Or.inr (Or.inr (Or.inl (?_)))))⟩,
    ⟨?_, Or.inr (Or.inr (Or.inl ⟨by unfold takesFrame; decide +kernel, ?_⟩))⟩,
    ⟨?_, Or.inr (Or.inr (Or.inr (Or.inr (Or.inr (Or.inl ⟨⟨⟨7, 0x12, .ok, []⟩, true, ?_⟩, ?_⟩)))))⟩,
    ⟨?_, Or.inr (Or.inr (Or.inr (Or.inr (Or.inr (Or.inr (?_))))))⟩,
    ⟨?_, Or.inr (Or.inl (?_))⟩,
    ⟨?_, Or.inr (Or.inr (Or.inr (Or.inl ⟨by unfold refusesFrame; decide +kernel, ?_⟩)))⟩⟩ <;> decide +kernel

/-- The hypotheses of PollAndInvalidFrames. -/
def hypPollAndInvalidFrames (s : State) (p : PortId) (type : Byte) (rest : List Byte) (i : Instr) (result : Option
    FrameResult) : Prop :=
  ((i = .poll p rest ∧ type = 0 ∧ rest = [] ∧ result = none ∧ (takesFrame s p ∨ refusesFrame s p)) ∨ (((i = .poll p
    rest ∧ type = 0 ∧ rest ≠ []) ∨ (i = .invalidFrameType p type rest ∧ 4 < type.toNat)) ∧ ((takesFrame s p ∧ result
    = some .check) ∨ (refusesFrame s p ∧ result = some .refused))))

theorem test_witness_PollAndInvalidFrames :
    hypPollAndInvalidFrames (begunAt 0 {}) 0 0 [] (.poll 0 []) none
    ∧ hypPollAndInvalidFrames (begunAt 0 {}) 0 0 [1] (.poll 0 [1]) (some .check)
    ∧ hypPollAndInvalidFrames { begunAt 0 {} with phase := .initialising } 0 5 [] (.invalidFrameType 0 5 []) (some
        .refused) := by
  refine ⟨?_, ?_, ?_⟩
  all_goals
    unfold hypPollAndInvalidFrames takesFrame refusesFrame; decide +kernel

/-- The hypotheses of CommandFrameTakesSlot. -/
def hypCommandFrameTakesSlot (s : State) (p : PortId) (rest : List Byte) (result : FrameResult) (taken : List Command)
    : Prop :=
  ((refusesFrame s p ∧ result = .refused ∧ taken = []) ∨ (takesFrame s p ∧ parseCommandFrame rest = none ∧ result =
    .check ∧ taken = []) ∨ (∃ c, takesFrame s p ∧ parseCommandFrame rest = some c ∧ ((8 ≤ (s.port p).slotsInUse ∧
    result = .refused ∧ taken = []) ∨ ((s.port p).slotsInUse < 8 ∧ result = .accepted ∧ taken = [c]))))

theorem test_witness_CommandFrameTakesSlot :
    hypCommandFrameTakesSlot { begunAt 0 {} with phase := .initialising } 0 [] .refused []
    ∧ hypCommandFrameTakesSlot (begunAt 0 {}) 0 [6] .check []
    ∧ hypCommandFrameTakesSlot ((begunAt 0 {}).modPort 0 fun q =>
        { q with link := { q.link with responses := List.replicate 8 ⟨7, 0x12, .ok, []⟩ } }) 0
        (commandFrameBytes 5 0x12 []) .refused []
    ∧ hypCommandFrameTakesSlot (begunAt 0 {}) 0 (commandFrameBytes 5 0x12 []) .accepted [⟨5, 0x12, [], false⟩] := by
  refine ⟨Or.inl ⟨by unfold refusesFrame; decide +kernel, ?_⟩,
    Or.inr (Or.inl ⟨by unfold takesFrame; decide +kernel, ?_⟩),
    Or.inr (Or.inr ⟨⟨5, 0x12, [], false⟩, by unfold takesFrame; decide +kernel, ?_⟩),
    Or.inr (Or.inr ⟨⟨5, 0x12, [], false⟩, by unfold takesFrame; decide +kernel, ?_⟩)⟩ <;> decide +kernel

/-- The hypotheses of ResponseFrameSendsHead. -/
def hypResponseFrameSendsHead (s : State) (p : PortId) : Prop :=
  takesFrame s p

theorem test_witness_ResponseFrameSendsHead :
    hypResponseFrameSendsHead (begunAt 0 {}) 0
    ∧ hypResponseFrameSendsHead ((begunAt 0 {}).modPort 0 fun q =>
        { q with link := { q.link with responses := [⟨7, 0x12, .ok, [0, 0]⟩] } }) 0 := by
  refine ⟨?_, ?_⟩
  all_goals
    unfold hypResponseFrameSendsHead takesFrame; decide +kernel

/-- The hypotheses of ReleaseByteDeliversResponse. -/
def hypReleaseByteDeliversResponse (s : State) (p : PortId) (_value : Byte) (r : Response) (standing : Bool) : Prop :=
  let l := (s.port p).link
  l.transaction = .response r standing

theorem test_witness_ReleaseByteDeliversResponse :
    hypReleaseByteDeliversResponse (at_ 0 fun q =>
        { q with csLow := true, link := { q.link with transaction := .response ⟨7, 0x12, .ok, []⟩ true, responses := [⟨7, 0x12, .ok, []⟩] } })
        0 0xA5 ⟨7, 0x12, .ok, []⟩ true
    ∧ hypReleaseByteDeliversResponse (at_ 0 fun q =>
        { q with csLow := true, link := { q.link with transaction := .response ⟨7, 0x12, .ok, []⟩ false, responses := [⟨7, 0x12, .ok, []⟩] } })
        0 0xA5 ⟨7, 0x12, .ok, []⟩ false := by
  refine ⟨?_, ?_⟩
  all_goals
    unfold hypReleaseByteDeliversResponse; decide +kernel

/-- The hypotheses of PauseAndResumeOutOfOrder. -/
def hypPauseAndResumeOutOfOrder (s : State) (p : PortId) (c : Command) (i : Instr) : Prop :=
  takesNext s p c ∧ inRange c = true ∧ (s.port p).record.state = .present ∧ ((i = .pause p ∧ c.code = 0x13 ∧ (s.port
    p).record.checkinOwed = true) ∨ (i = .resume p ∧ c.code = 0x14))

theorem test_witness_PauseAndResumeOutOfOrder :
    hypPauseAndResumeOutOfOrder ((give 0 0x13 [1, 0]).modPort 0 fun q =>
        { q with record := { q.record with checkinOwed := true } }) 0 (cmd 0x13 [1, 0]) (.pause 0)
    ∧ hypPauseAndResumeOutOfOrder (give 0 0x14 []) 0 (cmd 0x14 []) (.resume 0) := by
  refine ⟨?_, ?_⟩
  all_goals
    refine ⟨by unfold takesNext; decide +kernel, ?_, ?_, ?_⟩ <;> decide +kernel

/-- The hypotheses of PortResetBeforeReady. -/
def hypPortResetBeforeReady (s : State) (p : PortId) (_handed : Bool) : Prop :=
  s.phase ≠ .ready ∧ (s.port p).prstLow = false

theorem test_witness_PortResetBeforeReady :
    hypPortResetBeforeReady { busyPart with phase := .initialising } 0 false
    ∧ hypPortResetBeforeReady { begunAt 1 {} with phase := .held } 1 true := by
  refine ⟨?_, ?_⟩
  all_goals
    refine ⟨?_, ?_⟩ <;> decide +kernel

/-- The hypotheses of SubscriptionRefusals. -/
def hypSubscriptionRefusals (s : State) (p : PortId) (c : Command) (i : Instr) (ch : ChanId) (b : Byte) (bs : List
    Byte) (st : Status) : Prop :=
  takesNextAtTable s p c ∧ rowFor p c = some i ∧ inRange c = true ∧ c.params = b :: bs ∧ b.toNat = ch.val ∧ (s.chan
    ch).state ≠ .unused ∧ ((c.code = 0x30 ∧ ((s.chan ch).sub p).isSome = true ∧ st = .exists_) ∨ (c.code = 0x30 ∧
    (s.chan ch).sub p = none ∧ (s.chan ch).state = .draining ∧ st = .closed) ∨ ((c.code = 0x31 ∨ c.code = 0x32 ∨
    c.code = 0x33) ∧ (s.chan ch).sub p = none ∧ st = .nosub) ∨ (c.code = 0x31 ∧ ((s.chan ch).sub p).isSome = true ∧
    hasReadOn s ch p = true ∧ st = .busy) ∨ (c.code = 0x32 ∧ ((s.chan ch).sub p).isSome = true ∧ (s.chan ch).kind ≠
    some .fanout ∧ (∃ k l, bs = k :: l ∧ (k.getLsbD 0 = true ∨ k.getLsbD 1 = true)) ∧ st = .kind))

theorem test_witness_SubscriptionRefusals :
    hypSubscriptionRefusals (give 0 0x30 [0, 0, 1, 1]) 0 (cmd 0x30 [0, 0, 1, 1]) (.subscribe 0) 0 0 [0, 1, 1]
        .exists_
    ∧ hypSubscriptionRefusals ((give 0 0x30 [1, 0, 1, 1]).setChan 1 { chan1 with state := .draining }) 0 (cmd 0x30 [1,
        0, 1, 1]) (.subscribe 0) 1 1 [0, 1, 1] .closed
    ∧ hypSubscriptionRefusals (give 0 0x31 [1]) 0 (cmd 0x31 [1]) (.unsubscribe 0) 1 1 [] .nosub
    ∧ hypSubscriptionRefusals (give 0 0x32 [1, 0, 0, 0, 0]) 0 (cmd 0x32 [1, 0, 0, 0, 0]) (.subModify 0) 1 1 [0, 0, 0,
        0] .nosub
    ∧ hypSubscriptionRefusals (give 0 0x33 [1, 0]) 0 (cmd 0x33 [1, 0]) (.subQuery 0) 1 1 [0] .nosub
    ∧ hypSubscriptionRefusals (giveStream 1 (reading .reading 1 0 true 0 3 0) 0x31 [0]) 1 (cmd 0x31 [0]) (.unsubscribe
        1) 0 0 [] .busy
    ∧ hypSubscriptionRefusals (give 0 0x32 [2, 1, 0, 0, 0]) 0 (cmd 0x32 [2, 1, 0, 0, 0]) (.subModify 0) 2 2 [1, 0, 0,
        0] .kind := by
  refine ⟨⟨by unfold takesNextAtTable takesNext; decide +kernel, ?_, ?_, ?_, ?_, ?_, Or.inl (?_)⟩,
    ⟨by unfold takesNextAtTable takesNext; decide +kernel, ?_, ?_, ?_, ?_, ?_, Or.inr (Or.inl (?_))⟩,
    ⟨by unfold takesNextAtTable takesNext; decide +kernel, ?_, ?_, ?_, ?_, ?_, Or.inr (Or.inr (Or.inl (?_)))⟩,
    ⟨by unfold takesNextAtTable takesNext; decide +kernel, ?_, ?_, ?_, ?_, ?_, Or.inr (Or.inr (Or.inl (?_)))⟩,
    ⟨by unfold takesNextAtTable takesNext; decide +kernel, ?_, ?_, ?_, ?_, ?_, Or.inr (Or.inr (Or.inl (?_)))⟩,
    ⟨by unfold takesNextAtTable takesNext; decide +kernel, ?_, ?_, ?_, ?_, ?_, Or.inr (Or.inr (Or.inr (Or.inl (?_))))⟩,
    ⟨by unfold takesNextAtTable takesNext; decide +kernel, ?_, ?_, ?_, ?_, ?_, Or.inr (Or.inr (Or.inr (Or.inr ⟨?_, ?_, ?_, ⟨1, [0, 0, 0], ?_⟩, ?_⟩)))⟩⟩ <;> decide +kernel

/-- The hypotheses of SubModifyNotifyAlone. -/
def hypSubModifyNotifyAlone (s : State) (p : PortId) (c : Command) (a : SubModifyParams) (sub : Sub) : Prop :=
  let ch := a.channel
  takesNextAtTable s p c ∧ c.code = 0x32 ∧ parseSubModify c.params = some a ∧ (s.chan ch).state ≠ .unused ∧ ¬
    drained (s.chan ch) ∧ (s.chan ch).sub p = some sub ∧ (sub.fan.isSome = true ↔ (s.chan ch).kind = some .fanout) ∧
    a.mode = none ∧ a.limit = none ∧ ((s.chan ch).kind = some .fanout → a.notify = none)

theorem test_witness_SubModifyNotifyAlone :
    hypSubModifyNotifyAlone (give 0 0x32 [2, 4, 0, 0, 0]) 0 (cmd 0x32 [2, 4, 0, 0, 0]) ⟨2, none, none, some .never⟩
        { suspended := false, fan := none, notify := .each }
    ∧ hypSubModifyNotifyAlone (give 1 0x32 [0, 0, 0, 0, 0]) 1 (cmd 0x32 [0, 0, 0, 0, 0]) ⟨0, none, none, none⟩
        { suspended := false, fan := some ⟨.lossy, .lossy, 2⟩, notify := .edge }
    ∧ hypSubModifyNotifyAlone ((give 0 0x32 [1, 4, 0, 0, 2]).setChan 1 { chan1 with subs := chan2.subs }) 0 (cmd 0x32
        [1, 4, 0, 0, 2]) ⟨1, none, none, some .edge⟩ { suspended := false, fan := none, notify := .each } := by
  refine ⟨?_, ?_, ?_⟩
  all_goals
    refine ⟨by unfold takesNextAtTable takesNext; decide +kernel, ?_, ?_, ?_, by unfold drained; decide +kernel, ?_,
      ?_, ?_, ?_, ?_⟩ <;> decide +kernel

/-- The hypotheses of PostEvictsOldest. -/
def hypPostEvictsOldest (s : State) (p : PortId) (c : Command) (a : PostParams) (o r : RecId) (older : List RecId) :
    Prop :=
  let ch := a.channel
  let readers := portsWhere (s.chan ch).active
  let adm := admission (inlineAllocation p a) (popCommand p s)
  tableLaw s ∧ poolLaw s ∧ takesNextAtTable s p c ∧ c.code = 0x40 ∧ parsePost c.params = some a ∧ 1 ≤
    a.payload.length ∧ a.payload.length ≤ 48 ∧ (s.chan ch).kind = some .fanout ∧ (s.chan ch).log = o :: older ∧
    adm.1 = .ok ⟨r, 1⟩ ∧ readers ≠ 0 ∧ (∀ q sub, (s.chan ch).sub q = some sub → ∃ f, sub.fan = some f ∧ 1 ≤ f.limit
    ∧ lag s ch q ≤ f.limit)

theorem test_witness_PostEvictsOldest :
    hypPostEvictsOldest (give 0 0x40 [0, 0, 0, 0, 0, 0, 9]) 0 (cmd 0x40 [0, 0, 0, 0, 0, 0, 9]) ⟨0, none, none, [9]⟩
        0 0 [1]
    ∧ hypPostEvictsOldest (give 0 0x40 [7, 0, 0, 0, 0, 0, 9]) 0 (cmd 0x40 [7, 0, 0, 0, 0, 0, 9]) ⟨7, none, none, [9]⟩
        14 13 [] := by
  refine ⟨⟨busy_table rfl rfl, busy_pool rfl, by unfold takesNextAtTable takesNext; decide +kernel, ?_, ?_,
      ?_, ?_, ?_, ?_, of_admitted ?_, ?_, subs_fit ?_⟩,
    ⟨busy_table rfl rfl, busy_pool rfl, by unfold takesNextAtTable takesNext; decide +kernel, ?_, ?_,
      ?_, ?_, ?_, ?_, of_admitted ?_, ?_, subs_fit ?_⟩⟩ <;> decide +kernel

/-- The hypotheses of StageEvictsOldest. -/
def hypStageEvictsOldest (s : State) (p : PortId) (c : Command) (a : PostParams) (r : RecId) : Prop :=
  let adm := admission (inlineAllocation p a) (popCommand p s)
  poolLaw s ∧ takesNextAtTable s p c ∧ c.code = 0x41 ∧ parsePost c.params = some a ∧ (s.port p).staging.length < 8 ∧
    1 ≤ a.payload.length ∧ a.payload.length ≤ 48 ∧ adm.1 = .ok ⟨r, 1⟩

theorem test_witness_StageEvictsOldest :
    hypStageEvictsOldest (give 0 0x41 [0, 0, 0, 0, 0, 0, 9]) 0 (cmd 0x41 [0, 0, 0, 0, 0, 0, 9]) ⟨0, none, none, [9]⟩
        0 := by
  refine ⟨busy_pool rfl, by unfold takesNextAtTable takesNext; decide +kernel, ?_, ?_, ?_, ?_, ?_, of_admitted ?_⟩
    <;> decide +kernel

/-- The hypotheses of StagingRefusals. -/
def hypStagingRefusals (s : State) (p : PortId) (c : Command) (i : Instr) (st : Status) : Prop :=
  takesNext s p c ∧ inRange c = true ∧ (s.port p).record.state = .present ∧ ((i = .stage p ∧ c.code = 0x41 ∧ 8 ≤
    (s.port p).staging.length ∧ st = .full) ∨ (((i = .commit p ∧ c.code = 0x42) ∨ (i = .discard p ∧ c.code = 0x43))
    ∧ (s.port p).staging = [] ∧ st = .empty))

theorem test_witness_StagingRefusals :
    hypStagingRefusals ((give 0 0x41 [1, 0, 0, 0, 0, 0, 9]).modPort 0 fun q =>
        { q with staging := List.replicate 8 (.void 1) }) 0 (cmd 0x41 [1, 0, 0, 0, 0, 0, 9]) (.stage 0) .full
    ∧ hypStagingRefusals (give 0 0x42 []) 0 (cmd 0x42 []) (.commit 0) .empty
    ∧ hypStagingRefusals (give 0 0x43 []) 0 (cmd 0x43 []) (.discard 0) .empty := by
  refine ⟨?_, ?_, ?_⟩
  all_goals
    refine ⟨by unfold takesNext; decide +kernel, ?_, ?_, ?_⟩ <;> decide +kernel

/-- The hypotheses of SkipRefusals. -/
def hypSkipRefusals (s : State) (p : PortId) (c : Command) (a : SkipParams) (st : Status) : Prop :=
  let ch := a.channel
  takesNextAtTable s p c ∧ c.code = 0x51 ∧ parseSkip c.params = some a ∧ (s.chan ch).state ≠ .unused ∧ (((s.chan
    ch).kind ≠ some .fanout ∧ st = .kind) ∨ ((s.chan ch).kind = some .fanout ∧ (s.chan ch).active p = false ∧ st =
    .nosub) ∨ ((s.chan ch).kind = some .fanout ∧ (s.chan ch).active p = true ∧ hasReadOn s ch p = true ∧ st =
    .busy))

theorem test_witness_SkipRefusals :
    hypSkipRefusals (give 0 0x51 [1, 1]) 0 (cmd 0x51 [1, 1]) ⟨1, 1⟩ .kind
    ∧ hypSkipRefusals (give 2 0x51 [0, 1]) 2 (cmd 0x51 [0, 1]) ⟨0, 1⟩ .nosub
    ∧ hypSkipRefusals (giveStream 1 (reading .reading 1 0 true 0 3 0) 0x51 [0, 1]) 1 (cmd 0x51 [0, 1]) ⟨0, 1⟩ .busy := by
  refine ⟨?_, ?_, ?_⟩
  all_goals
    refine ⟨by unfold takesNextAtTable takesNext; decide +kernel, ?_, ?_, ?_, ?_⟩ <;> decide +kernel

/-- The hypotheses of OpenFetchRefusals. -/
def hypOpenFetchRefusals (s : State) (p : PortId) (c : Command) (a : OpenFetchParams) (st : Status) : Prop :=
  let ch := a.channel
  let needsSub := (s.chan ch).kind = some .fanout ∨ ((s.chan ch).kind = some .latest ∧ a.consume = true)
  let subFits := needsSub → (s.chan ch).active p = true
  takesNextAtTable s p c ∧ c.code = 0x61 ∧ parseOpenFetch c.params = some a ∧ (s.chan ch).state ≠ .unused ∧ (s.port
    p).stream.state = .idle ∧ ((needsSub ∧ (s.chan ch).active p = false ∧ st = .nosub) ∨ (subFits ∧ fetchTarget s ch
    p = none ∧ st = .empty) ∨ (subFits ∧ (∃ r, fetchTarget s ch p = some r ∧ inSet (s.record r).holders p = true) ∧
    st = .busy))

theorem test_witness_OpenFetchRefusals :
    hypOpenFetchRefusals (give 2 0x61 [0, 1, 0]) 2 (cmd 0x61 [0, 1, 0]) ⟨0, true, 0⟩ .nosub
    ∧ hypOpenFetchRefusals (give 2 0x61 [2, 1, 0]) 2 (cmd 0x61 [2, 1, 0]) ⟨2, true, 0⟩ .nosub
    ∧ hypOpenFetchRefusals (give 0 0x61 [4, 0, 0]) 0 (cmd 0x61 [4, 0, 0]) ⟨4, false, 0⟩ .empty
    ∧ hypOpenFetchRefusals (give 0 0x61 [2, 0, 0]) 0 (cmd 0x61 [2, 0, 0]) ⟨2, false, 0⟩ .busy := by
  refine ⟨⟨by unfold takesNextAtTable takesNext; decide +kernel, ?_, ?_, ?_, ?_, Or.inl (?_)⟩,
    ⟨by unfold takesNextAtTable takesNext; decide +kernel, ?_, ?_, ?_, ?_, Or.inl (?_)⟩,
    ⟨by unfold takesNextAtTable takesNext; decide +kernel, ?_, ?_, ?_, ?_, Or.inr (Or.inl (?_))⟩,
    ⟨by unfold takesNextAtTable takesNext; decide +kernel, ?_, ?_, ?_, ?_, Or.inr (Or.inr ⟨?_, ⟨4, ?_⟩, ?_⟩)⟩⟩ <;> decide +kernel

/-- The hypotheses of StreamEndOnDraining. -/
def hypStreamEndOnDraining (s : State) (p : PortId) (c : Command) (r : RecId) (ch : ChanId) (kind : Kind) : Prop :=
  let x := (s.port p).stream
  let m := s.record r
  tableLaw s ∧ takesNextAtTable s p c ∧ c.code = 0x62 ∧ c.params = [] ∧ x.state = .readDone ∧ x.record = some r ∧
    x.channel = some ch ∧ (m.state = .sealed ∨ m.state = .withdrawn) ∧ m.channel = some ch ∧ inSet m.holders p =
    true ∧ (m.state = .sealed → kind = .queue → m.claimant = some p) ∧ (s.chan ch).state = .draining ∧ (s.chan
    ch).kind = some kind

theorem test_witness_StreamEndOnDraining :
    hypStreamEndOnDraining ((giveStream 1 (reading .readDone 2 1 true 3 0 3) 0x62 []).setChan 1
        { chan1 with state := .draining }) 1 (cmd 0x62 []) 2 1 .queue
    ∧ hypStreamEndOnDraining (withRec 11 { sealedRec 6 2 1 11 with pending := some 2, holders := 2 } ((giveStream 1
        (reading .readDone 11 6 true 3 0 3) 0x62 []).setChan 6 { chan6 with state := .draining })) 1 (cmd 0x62
        []) 11 6 .fanout
    ∧ hypStreamEndOnDraining ((giveStream 0 (reading .readDone 12 1 true 3 0 3) 0x62 []).setChan 1
        { chan1 with state := .draining }) 0 (cmd 0x62 []) 12 1 .queue
    ∧ hypStreamEndOnDraining ((giveStream 0 (reading .readDone 4 2 true 3 0 3) 0x62 []).setChan 2
        { chan2 with state := .draining }) 0 (cmd 0x62 []) 4 2 .latest
    ∧ hypStreamEndOnDraining (withRec 12 { sealedRec 1 2 7 12 with state := .withdrawn, holders := 3 } ((giveStream 0
        (reading .readDone 12 1 true 3 0 3) 0x62 []).setChan 1 { chan1 with state := .draining })) 0 (cmd 0x62
        []) 12 1 .queue := by
  refine ⟨⟨table_draining 1 (busy_table rfl rfl) (by decide +kernel), by unfold takesNextAtTable takesNext; decide +kernel,
      ?_, ?_, ?_, ?_, ?_, ?_, ?_, ?_, ?_, ?_, ?_⟩,
    ⟨table_withRec 11 _ (table_draining 6 (busy_table rfl rfl) (by decide +kernel)) (by unfold recordFits; decide +kernel)
      rfl rfl rfl, by unfold takesNextAtTable takesNext; decide +kernel,
      ?_, ?_, ?_, ?_, ?_, ?_, ?_, ?_, ?_, ?_, ?_⟩,
    ⟨table_draining 1 (busy_table rfl rfl) (by decide +kernel), by unfold takesNextAtTable takesNext; decide +kernel,
      ?_, ?_, ?_, ?_, ?_, ?_, ?_, ?_, ?_, ?_, ?_⟩,
    ⟨table_draining 2 (busy_table rfl rfl) (by decide +kernel), by unfold takesNextAtTable takesNext; decide +kernel,
      ?_, ?_, ?_, ?_, ?_, ?_, ?_, ?_, ?_, ?_, ?_⟩,
    ⟨table_withRec 12 _ (table_draining 1 (busy_table rfl rfl) (by decide +kernel)) (by unfold recordFits; decide +kernel)
      rfl rfl rfl, by unfold takesNextAtTable takesNext; decide +kernel,
      ?_, ?_, ?_, ?_, ?_, ?_, ?_, ?_, ?_, ?_, ?_⟩⟩ <;> decide +kernel

/-- The hypotheses of OpenWriteXreqFollowsRoom. -/
def hypOpenWriteXreqFollowsRoom (s : State) (p : PortId) (_rest : List Byte) : Prop :=
  takesFrame s p

theorem test_witness_OpenWriteXreqFollowsRoom :
    hypOpenWriteXreqFollowsRoom (begunAt 0 (writing 6 1 .openEnded 63 none)) 0 (dataOutBytes 5 [9, 8]) := by
  unfold hypOpenWriteXreqFollowsRoom takesFrame; decide +kernel

/-- The hypotheses of DataOutTakesNoticesFirst. -/
def hypDataOutTakesNoticesFirst (s : State) (p : PortId) (rest : List Byte) (chunk : Byte) (data : List Byte) (r :
    RecId) (ch : ChanId) (notices : List TableMsg) : Prop :=
  let x := (s.port p).stream
  let m := s.record r
  tableLaw s ∧ takesFrame s p ∧ parseDataOut rest = some (chunk, data) ∧ (s.port p).toTable = notices ++
    [.resumeNotice] ∧ (∀ n ∈ notices, n = .pauseNotice ∨ n = .resumeNotice ∨ ∃ o d, n = .abort o d ∧ o ≠ r) ∧
    (s.port p).record.state ≠ .paused ∧ x.state = .writing ∧ x.record = some r ∧ x.channel = some ch ∧ x.isResend
    chunk = false ∧ chunk = x.expected ∧ x.mode = some .counted ∧ x.remaining = some data.length ∧ m.state =
    .filling ∧ m.origin = some p ∧ m.channel = some ch ∧ m.form = some .counted ∧ x.byteCount + data.length =
    m.length ∧ m.length ≤ 64 * m.chain.length ∧ (s.chan ch).state = .opened

theorem test_witness_DataOutTakesNoticesFirst :
    hypDataOutTakesNoticesFirst ((begunAt 0 (writing 5 1 .counted 0 (some 3))).modPort 0 fun q =>
        { q with toTable := [.pauseNotice, .resumeNotice] }) 0 (dataOutBytes 5 [9, 8, 7]) 5 [9, 8, 7] 5 1
        [.pauseNotice]
    ∧ hypDataOutTakesNoticesFirst ((begunAt 0 (writing 5 1 .counted 0 (some 3))).modPort 0 fun q =>
        { q with toTable := [.abort 10 5, .pauseNotice, .resumeNotice] }) 0 (dataOutBytes 5 [9, 8, 7]) 5 [9, 8,
        7] 5 1 [.abort 10 5, .pauseNotice] := by
  refine ⟨?_, ?_⟩
  all_goals
    refine ⟨busy_table rfl rfl, by unfold takesFrame; decide +kernel, ?_, ?_, ?_, ?_, ?_, ?_, ?_, ?_, ?_, ?_, ?_,
      ?_, ?_, ?_, ?_, ?_, ?_, ?_⟩ <;> decide +kernel

/-- The hypotheses of DataInBeforeReady. -/
def hypDataInBeforeReady (s : State) (p : PortId) (_chunk _complement : Byte) : Prop :=
  refusesFrame s p

theorem test_witness_DataInBeforeReady :
    hypDataInBeforeReady { begunAt 0 {} with phase := .initialising } 0 1 254
    ∧ hypDataInBeforeReady (at_ 0 fun q => { q with csLow := true, link := { q.link with transaction := .early } }) 0
        1 254 := by
  refine ⟨?_, ?_⟩
  all_goals
    unfold hypDataInBeforeReady refusesFrame; decide +kernel

/-- The hypotheses of ResponseBeforeReady. -/
def hypResponseBeforeReady (s : State) (p : PortId) : Prop :=
  refusesFrame s p

theorem test_witness_ResponseBeforeReady :
    hypResponseBeforeReady { begunAt 0 {} with phase := .initialising } 0
    ∧ hypResponseBeforeReady (at_ 0 fun q => { q with csLow := true, link := { q.link with transaction := .early } })
        0 := by
  refine ⟨?_, ?_⟩
  all_goals
    unfold hypResponseBeforeReady refusesFrame; decide +kernel

/-- The hypotheses of FurtherBytesCarryFF. -/
def hypFurtherBytesCarryFF (s : State) (p : PortId) (_value : Byte) : Prop :=
  let l := (s.port p).link
  (l.transaction = .noneFrame ∨ (∃ result, l.transaction = .decided result))

theorem test_witness_FurtherBytesCarryFF :
    hypFurtherBytesCarryFF (at_ 0 fun q =>
        { q with csLow := true, link := { q.link with transaction := .noneFrame, responses := [⟨7, 0x12, .ok, []⟩] } })
        0 7
    ∧ hypFurtherBytesCarryFF (at_ 0 fun q =>
        { q with csLow := true, link := { q.link with transaction := .decided none, responses := [⟨7, 0x12, .ok, []⟩] } })
        0 7 := by
  refine ⟨Or.inl (?_),
    Or.inr ⟨none, ?_⟩⟩ <;> decide +kernel

/-- The hypotheses of CheckinRefusedByState. -/
def hypCheckinRefusedByState (s : State) (p : PortId) (c : Command) (st : Status) : Prop :=
  takesNext s p c ∧ c.code = 0x12 ∧ (((s.port p).record.state = .paused ∧ st = .paused) ∨ ((s.port p).record.state =
    .lapsed ∧ st = .lapsed) ∨ ((s.port p).record.state = .detached ∧ st = .detached))

theorem test_witness_CheckinRefusedByState :
    hypCheckinRefusedByState (giveIn .paused 0 0x12 []) 0 (cmd 0x12 []) .paused
    ∧ hypCheckinRefusedByState (giveIn .lapsed 0 0x12 []) 0 (cmd 0x12 []) .lapsed
    ∧ hypCheckinRefusedByState (giveIn .detached 0 0x12 []) 0 (cmd 0x12 []) .detached := by
  refine ⟨?_, ?_, ?_⟩
  all_goals
    refine ⟨by unfold takesNext; decide +kernel, ?_, ?_⟩ <;> decide +kernel

/-- The hypotheses of OrphanedRequestIsTaken. -/
def hypOrphanedRequestIsTaken (s : State) (p : PortId) (req : Request) (c : Command) (x : Stream) (i : Instr) (rest :
    List TableMsg) : Prop :=
  s.phase = .ready ∧ (s.port p).toTable = .request req :: rest ∧ (s.port p).stream = {} ∧ (s.port p).staging = [] ∧
    (∀ d, takesNext s p d → rowFor p d ≠ some i) ∧ rowFor p c = some i ∧ c.malformed = false ∧ inRange c = true ∧
    ((req = .command c ∧ x = {} ∧ c.code ∈ [0x20, 0x21, 0x22, 0x23, 0x24, 0x25, 0x30, 0x31, 0x32, 0x33, 0x40, 0x41,
    0x50, 0x51, 0x60, 0x61])
      ∨ (∃ r ch, req = .seal_ r ch ∧ c.code = 0x62
          ∧ x = { state := .writing, direction := some .write, mode := some .openEnded, channel := some ch,
                  record := some r, byteCount := 1, remaining := none }))

theorem test_witness_OrphanedRequestIsTaken :
    hypOrphanedRequestIsTaken (at_ 0 fun q =>
        { q with record := {}, toTable := [.request (.command (cmd 0x40 [1, 0, 0, 0, 0, 0, 9])), .resetNotice] })
        0 (.command (cmd 0x40 [1, 0, 0, 0, 0, 0, 9])) (cmd 0x40 [1, 0, 0, 0, 0, 0, 9]) {} (.post 0)
        [.resetNotice]
    ∧ hypOrphanedRequestIsTaken (at_ 0 fun q =>
        { q with record := {}, toTable := [.request (.seal_ 6 1), .resetNotice] }) 0 (.seal_ 6 1) (cmd 0x62 [])
        ({ writing 6 1 .openEnded 1 none with expected := 0 }) (.streamEnd 0) [.resetNotice] := by
  refine ⟨⟨?_, ?_, ?_, ?_, fun d h => absurd (show (none : Option Command) = some d from h.2.2.1) (by simp),
      ?_, ?_, ?_, Or.inl (?_)⟩,
    ⟨?_, ?_, ?_, ?_, fun d h => absurd (show (none : Option Command) = some d from h.2.2.1) (by simp),
      ?_, ?_, ?_, Or.inr ⟨6, 1, ?_⟩⟩⟩ <;> decide +kernel

/-- The hypotheses of OrphanedCommitFindsNothing. -/
def hypOrphanedCommitFindsNothing (s : State) (p : PortId) (c : Command) (i : Instr) (rest : List TableMsg) : Prop :=
  (s.port p).toTable = .request (.command c) :: rest ∧ (s.port p).staging = [] ∧ (∀ d, takesNext s p d → rowFor p d
    ≠ some i) ∧ c.params = [] ∧ ((i = .commit p ∧ c.code = 0x42) ∨ (i = .discard p ∧ c.code = 0x43))

theorem test_witness_OrphanedCommitFindsNothing :
    hypOrphanedCommitFindsNothing (at_ 0 fun q =>
        { q with record := {}, toTable := [.request (.command (cmd 0x42 [])), .resetNotice] }) 0 (cmd 0x42 [])
        (.commit 0) [.resetNotice]
    ∧ hypOrphanedCommitFindsNothing (at_ 0 fun q =>
        { q with record := {}, toTable := [.request (.command (cmd 0x43 [])), .resetNotice] }) 0 (cmd 0x43 [])
        (.discard 0) [.resetNotice] := by
  refine ⟨⟨?_, ?_, fun d h => absurd (show (none : Option Command) = some d from h.2.2.1) (by simp), ?_, ?_⟩,
    ⟨?_, ?_, fun d h => absurd (show (none : Option Command) = some d from h.2.2.1) (by simp), ?_, ?_⟩⟩ <;> decide +kernel

/-- The hypotheses of OrphanedEndOfReadIsTaken. -/
def hypOrphanedEndOfReadIsTaken (s : State) (p : PortId) (r : RecId) (ch : ChanId) (consume : Bool) (rest : List
    TableMsg) : Prop :=
  s.phase = .ready ∧ (s.port p).toTable = .request (.endOfRead r ch consume) :: rest ∧ (∀ d, takesNext s p d →
    d.code ≠ 0x62)

theorem test_witness_OrphanedEndOfReadIsTaken :
    hypOrphanedEndOfReadIsTaken (at_ 1 fun q =>
        { q with record := {}, toTable := [.request (.endOfRead 2 1 true), .resetNotice] }) 1 2 1 true
        [.resetNotice]
    ∧ hypOrphanedEndOfReadIsTaken (at_ 0 fun q =>
        { q with record := {}, toTable := [.request (.endOfRead 2 1 true), .resetNotice] }) 0 2 1 true
        [.resetNotice] := by
  refine ⟨⟨?_, ?_, fun d h => absurd (show (none : Option Command) = some d from h.2.2.1) (by simp)⟩,
    ⟨?_, ?_, fun d h => absurd (show (none : Option Command) = some d from h.2.2.1) (by simp)⟩⟩ <;> decide +kernel

/-- The hypotheses of AdmissionRefusesCommand. -/
def hypAdmissionRefusesCommand (s : State) (p : PortId) (c : Command) (i : Instr) (a : Allocation) (st : Status) :
    Prop :=
  let adm := admission a (popCommand p s)
  let ch := a.channel
  takesNextAtTable s p c ∧ ((i = .post p ∧ c.code = 0x40 ∧ ∃ b ∈ parsePost c.params, a = inlineAllocation p b) ∨ (i
    = .stage p ∧ c.code = 0x41 ∧ (s.port p).staging.length < 8 ∧ ∃ b ∈ parsePost c.params, a = inlineAllocation p b)
    ∨ (i = .openPost p ∧ c.code = 0x60 ∧ (s.port p).stream.state = .idle ∧ ∃ b ∈ parseOpenPost c.params, a =
    streamAllocation p b)) ∧ (s.chan ch).state ≠ .unused ∧ adm.1 = .error st

theorem test_witness_AdmissionRefusesCommand :
    hypAdmissionRefusesCommand ((give 0 0x40 [1, 0, 0, 0, 0, 0, 9]).setChan 1 { chan1 with state := .draining }) 0
        (cmd 0x40 [1, 0, 0, 0, 0, 0, 9]) (.post 0) ⟨1, 0, .counted, 1, none, none⟩ .closed
    ∧ hypAdmissionRefusesCommand ((give 0 0x41 [1, 0, 0, 0, 0, 0, 9]).setChan 1 { chan1 with depth := 4 }) 0 (cmd 0x41
        [1, 0, 0, 0, 0, 0, 9]) (.stage 0) ⟨1, 0, .counted, 1, none, none⟩ .full
    ∧ hypAdmissionRefusesCommand ((give 0 0x40 [0, 0, 0, 0, 0, 0, 9]).setChan 0 { chan0 with quota := 1 }) 0 (cmd 0x40
        [0, 0, 0, 0, 0, 0, 9]) (.post 0) ⟨0, 0, .counted, 1, none, none⟩ .quota
    ∧ hypAdmissionRefusesCommand (give 0 0x60 [1, 0, 193, 0, 0, 0, 0, 0, 0]) 0 (cmd 0x60 [1, 0, 193, 0, 0, 0, 0, 0,
        0]) (.openPost 0) ⟨1, 0, .counted, 193, none, none⟩ .quota := by
  refine ⟨⟨by unfold takesNextAtTable takesNext; decide +kernel, Or.inl ⟨?_, ?_, ⟨1, none, none, [9]⟩, ?_⟩, ?_, of_refused ?_⟩,
    ⟨by unfold takesNextAtTable takesNext; decide +kernel, Or.inr (Or.inl ⟨?_, ?_, ?_, ⟨1, none, none, [9]⟩, ?_⟩), ?_, of_refused ?_⟩,
    ⟨by unfold takesNextAtTable takesNext; decide +kernel, Or.inl ⟨?_, ?_, ⟨0, none, none, [9]⟩, ?_⟩, ?_, of_refused ?_⟩,
    ⟨by unfold takesNextAtTable takesNext; decide +kernel, Or.inr (Or.inr ⟨?_, ?_, ?_, ⟨1, 193, 0, none, none⟩, ?_⟩), ?_, of_refused ?_⟩⟩ <;> decide +kernel

/-! ## Witnesses of the laws and of the statements with clauses -/

/-- The part with a TICK before it. -/
def tickNext : State := { busyPart with pending := [.tick] }

/-- The premises of the laws that every step keeps hold together, and the step answers a next state. -/
theorem test_witness_laws : tableLaw tickNext ∧ depthLaw tickNext ∧ poolLaw tickNext ∧ blockLaw tickNext
    ∧ (∃ t, step tickNext = .next t) := by
  refine ⟨busy_table rfl rfl, busy_depth rfl, busy_pool rfl, ⟨?_, by decide +kernel⟩,
    by unfold step tickNext; exact ⟨_, rfl⟩⟩
  have h : (allRecords.flatMap fun r => (tickNext.record r).chain) = (List.finRange 512).take 14 := by decide +kernel
  have hf : tickNext.store.free = (List.finRange 512).drop 14 := by decide +kernel
  rw [h, hf]
  exact List.perm_append_comm.trans (List.Perm.of_eq (List.take_append_drop 14 _))

theorem test_witness_portLaws : debtLaw tickNext ∧ slotLaw tickNext ∧ stagingLaw tickNext ∧ eventLaw tickNext
    ∧ sequenceLaw tickNext ∧ xreqLaw tickNext := by
  unfold debtLaw slotLaw stagingLaw eventLaw sequenceLaw xreqLaw
  refine ⟨?_, ?_, ?_, ?_, ?_, ?_⟩ <;> decide +kernel

/-- An event queue with an older and a younger record of channel 1. -/
def twoEvents : List EventRecord := [⟨.peer, 1, none, 1, some .reset⟩, ⟨.arrival, 1, some 4, 255, none⟩]

/-- Port 0 of the part with a change to its record and the given event queue. -/
def rec0 (f : PortRecord → PortRecord) (es : List EventRecord) : PortState :=
  { presentPort with record := f presentPort.record, events := es }

/-- RaisedEventFoldsAppendsOrIsLost: an event not enabled, one that folds, one that is appended, one that is lost. -/
theorem test_witness_raised :
    (rec0 (fun r => { r with enables := 0 }) []).record.enables.getLsbD (arrivalEvent 1 5).kind.code = false
    ∧ ((rec0 id twoEvents).accepts (arrivalEvent 1 5) = true
        ∧ (rec0 id twoEvents).events = [⟨.peer, 1, none, 1, some .reset⟩] ++ ⟨.arrival, 1, some 4, 255, none⟩ :: []
        ∧ ¬ (EventKind.peer = (arrivalEvent 1 5).kind))
    ∧ (∀ y ∈ twoEvents, ¬ (y.kind = (arrivalEvent 2 5).kind ∧ y.subject = (arrivalEvent 2 5).subject))
    ∧ ((rec0 id (List.replicate 16 ⟨.peer, 1, none, 1, some .reset⟩)).accepts (arrivalEvent 2 5) = true
        ∧ ∀ y ∈ List.replicate 16 (⟨.peer, 1, none, 1, some .reset⟩ : EventRecord),
            ¬ (y.kind = (arrivalEvent 2 5).kind ∧ y.subject = (arrivalEvent 2 5).subject)) := by
  decide +kernel

/-- DrainCompletesToUnused: a channel that has drained, with a subscriber to tell, and one that has not. -/
theorem test_witness_drained :
    (let s := busyPart.setChan 1 { chan4 with state := .draining, reserved := 0 }
     (s.chan 1).state = .draining ∧ (s.chan 1).log = [] ∧ (s.chan 1).reserved = 0 ∧ (s.chan 1).withdrawn = 0
       ∧ ((s.chan 1).sub 0).isSome = true ∧ (s.port 0).accepts (chanEvent .channelGone 1) = true)
    ∧ ¬ ((busyPart.chan 1).state = .draining ∧ (busyPart.chan 1).log = [] ∧ (busyPart.chan 1).reserved = 0
          ∧ (busyPart.chan 1).withdrawn = 0) := by
  decide +kernel

/-- RangesOfParameters: a name of eight characters; two commands whose parameters are in range, two whose are not. -/
theorem test_witness_ranges : (named 0x42).length = 8 ∧ inRange (cmd 0x13 [0x60, 0xEA]) = true
    ∧ inRange (cmd 0x13 [0x61, 0xEA]) = false ∧ inRange (cmd 0x21 (named 0x7E)) = true
    ∧ inRange (cmd 0x21 (named 0x7F)) = false := by decide +kernel

/-- sealDelivered: on C0 a seal calls P0 and takes P1, whose lag is its limit, past it; on C2 it calls P0. -/
theorem test_witness_sealDelivered : sealCalls busyPart 0 0 ∧ sealsSkip 1 busyPart 0 1 ∧ sealCalls busyPart 2 0 := by
  refine ⟨⟨_, rfl, rfl, Or.inl rfl⟩, ⟨rfl, _, rfl, rfl, _, rfl, ?_⟩, ⟨_, rfl, rfl, Or.inl rfl⟩⟩
  decide +kernel

/-- HandedRequestOfHeadCommand: a head command that gives its request, an open-ended write and a read that STREAM_END ends,
and a head command that check 4 answers. -/
theorem test_witness_handed :
    handedRequest 0 (give 0 0x40 [1, 0, 0, 0, 0, 0, 9]) = some (.command (cmd 0x40 [1, 0, 0, 0, 0, 0, 9]))
    ∧ handedRequest 0 (giveStream 0 (writing 6 1 .openEnded 3 none) 0x62 []) = some (.seal_ 6 1)
    ∧ handedRequest 1 (giveStream 1 (reading .readDone 2 1 true 3 0 3) 0x62 []) = some (.endOfRead 2 1 true)
    ∧ handedRequest 0 (give 0 0x42 []) = none ∧ handedRequest 0 busyPart = none := by decide +kernel

/-- FullFanoutChannelEvictsOldest: a full channel whose oldest message is held, and one whose oldest message may go and
whose BLOCKING port stays at its limit. -/
theorem test_witness_fullFanoutClauses :
    (let s := withRec 14 { sealedRec 7 0 1 13 with pending := some 2, holders := 1 } busyPart
     (s.chan 7).depth < (s.chan 7).log.length + (s.chan 7).reserved + 1 ∧ (s.chan 7).log = [14]
       ∧ (s.record 14).holders ≠ 0)
    ∧ (let s := busyPart.setChan 0 { chan0 with
         subs := #v[fanSub .blocking .blocking 1 .each, fanSub .lossy .lossy 2 .edge, none, none] }
       (s.chan 0).depth < (s.chan 0).log.length + (s.chan 0).reserved + 1 ∧ (s.record 0).holders = 0
         ∧ (s.record 0).pending = some 2 ∧ (s.chan 0).effective 1 = some .lossy
         ∧ (s.chan 0).effective 0 = some .blocking ∧ 1 < lag s 0 0 + (s.chan 0).reserved + 1) := by
  decide +kernel

/-- OpenWriteXreqWatchesRoom: an abort frees a block while a port writes an open-ended record of the channel. -/
theorem test_witness_openWriteWatches :
    let s := (sent 0 (.abort 5 1)).modPort 0 fun q => { q with stream := writing 6 1 .openEnded 3 none }
    let t := abortRequest 0 s
    (t.port 0).stream.openWrite = true ∧ (t.port 0).stream.record = some 6 ∧ (t.port 0).stream.channel = some 1
      ∧ t.store.free.length ≠ s.store.free.length ∧ (t.port 0).stream.xreq = true := by decide +kernel

/-! ## Single steps of the points that the manual settles by order -/

/-- The state that an outcome leaves. -/
def after (o : Host.Outcome State Fault Refusal) : Option State := match o with
  | .next t => some t
  | _ => none

/-- A subscription whose bound fails before SUB_MODIFY drops messages is DEFERRED, and stays so in that event although the
bound holds after them (R52, R53, R64). -/
theorem test_subModify_stays_deferred :
    ((after (execSubModify 1 (give 1 0x32 [0, 3, 0, 1, 0]))).map fun t => ((t.chan 0).effective 1, lag t 0 1)) =
      some (some .deferred, 1) := by decide +kernel

/-- An expiry timer still due when the count ends fires in the tick, once (R20; log 7). -/
theorem test_tick_fires :
    let s := withRec 3 { sealedRec 1 0 2 3 with deadline := some 0 } busyPart
    (tick s).store.notices = [⟨3, 1, 2⟩] ∧ ((tick s).record 3).fired = true ∧ (tick (tick s)).store.notices = [⟨3, 1, 2⟩] := by
  decide +kernel

/-- A frame whose chip-select fell before READY is refused although READY has come (R169). -/
theorem test_early_frame_refused :
    ((after (execCommandFrame 0 (commandFrameBytes 5 0x12 []) (poolInitialisationDone
      { begunAt 0 {} with phase := .initialising }))).map fun t => ((t.port 0).link.result, (t.port 0).link.commands)) =
      some (.refused, []) := by decide +kernel

/-- A seal asked for behind an abort and a resume notice finds the abort taken and the mark PRESENT (R25, R45; log 10). -/
theorem test_seal_behind_abort :
    let s := (begunAt 0 (writing 5 1 .counted 0 (some 3))).modPort 0 fun q =>
      { q with toTable := [.abort 10 5, .resumeNotice] }
    ((after (execDataOut 0 (dataOutBytes 5 [9, 8, 7]) (s.setMark 0 .paused))).map fun t =>
        (t.mark 0, (t.port 0).toTable, (t.record 5).state, (t.record 10).state)) =
      some (.present, [], .sealed, .free) := by decide +kernel

/-- A seal asked for behind a waiting resume notice finds the mark PRESENT (R45; log 10). -/
theorem test_seal_behind_notice :
    let s := (begunAt 0 (writing 5 1 .counted 0 (some 3))).modPort 0 fun q => { q with toTable := [.resumeNotice] }
    ((after (execDataOut 0 (dataOutBytes 5 [9, 8, 7]) (s.setMark 0 .paused))).map fun t =>
        (t.mark 0, (t.port 0).toTable, (t.record 5).state)) = some (.present, [], .sealed) := by decide +kernel

/-- A DATA_IN frame cut after its chunk number has driven FFh in its byte 1 (R158). -/
theorem test_cut_dataIn_drives :
    ((after (execChipSelectRise 0 (.afterNumber 7) (begunAt 0 {}))).map fun t =>
        ((t.port 0).link.rx, (t.port 0).link.tx, (t.port 0).link.result)) = some ([4, 7], [0xFF], .check) := by
  decide +kernel

end Sys2Proof.Tests
end

/-! Proofs: LOOKUP (R34). -/
namespace Sys2Proof.Machine

/-! ## Names and the channels that hold them (R28) -/

theorem nameAcceptable_iff (name : List Byte) :
    nameAcceptable name = true ↔
      name.length = 8 ∧ (∀ b ∈ name, 0x20 ≤ b.toNat ∧ b.toNat ≤ 0x7E) ∧ ∃ b ∈ name, b ≠ 0x20 := by
  simp [nameAcceptable, and_assoc]

/-- A name with a byte outside 20h to 7Eh, or of 20h alone, is not acceptable. -/
theorem nameAcceptable_eq_false {name : List Byte}
    (h : (∃ b ∈ name, b.toNat < 0x20 ∨ 0x7E < b.toNat) ∨ ∀ b ∈ name, b = 0x20) : nameAcceptable name = false := by
  refine Bool.eq_false_iff.mpr fun acceptable => ?_
  obtain ⟨-, inRange, b, hb, notSpace⟩ := (nameAcceptable_iff name).mp acceptable
  rcases h with ⟨d, hd, outside⟩ | allSpaces
  · have := inRange d hd
    omega
  · exact notSpace (allSpaces b hb)

/-- A channel found by its name is not UNUSED and holds the name. -/
theorem channelNamed_some {s : State} {name : List Byte} {d : ChanId} (h : channelNamed s name = some d) :
    (s.chan d).state ≠ .unused ∧ (s.chan d).name = some name := by
  simpa using List.find?_some h

theorem channelNamed_eq_none_iff {s : State} {name : List Byte} :
    channelNamed s name = none ↔ ∀ d, (s.chan d).state ≠ .unused → (s.chan d).name ≠ some name := by
  simp [channelNamed, allChannels]

/-- The only channel that holds a name is the one found by it. -/
theorem channelNamed_eq_some {s : State} {name : List Byte} {d : ChanId} (used : (s.chan d).state ≠ .unused)
    (named : (s.chan d).name = some name)
    (unique : ∀ e, (s.chan e).state ≠ .unused → (s.chan e).name = some name → e = d) :
    channelNamed s name = some d := by
  cases found : channelNamed s name with
  | none => exact absurd named (channelNamed_eq_none_iff.mp found d used)
  | some e =>
    obtain ⟨usedE, namedE⟩ := channelNamed_some found
    rw [unique e usedE namedE]

/-! ## A command that leaves its queue (R163) -/

@[simp] theorem popCommand_chan (p : PortId) (s : State) (ch : ChanId) : (popCommand p s).chan ch = s.chan ch := rfl

@[simp] theorem channelNamed_popCommand (p : PortId) (s : State) (name : List Byte) :
    channelNamed (popCommand p s) name = channelNamed s name := rfl

/-! ## A table command whose event changes nothing -/

/-- When the table's event leaves the state as it is, the command is answered with the table's answer and nothing else. -/
theorem tableCommand_answers {α : Type} {p : PortId} {row : Command → Bool} {parse : List Byte → Option α}
    {own : PortState → α → Option Status} {event : α → State → TableAnswer × State} {s : State} {c : Command} {a : α}
    {ans : TableAnswer} (h : takesNextAtTable s p c) (hr : row c = true)
    (hc : checkCommand parse own (s.port p) c = .ok a)
    (hev : event a (popCommand p s) = (ans, popCommand p s)) :
    tableCommand p row parse own event (finishPlain p) s = answeredOnly p c ans.status ans.results s := by
  rw [tableCommand_ok h hr hc, hev]
  exact endPortEvent_answer p c ans.status ans.results s

/-! ## What LOOKUP answers -/

/-- The answer to a LOOKUP with the given parameter bytes: LIMIT from the controller, or the table's answer (R34). -/
def lookupAnswer (name : List Byte) (s : State) : TableAnswer :=
  if nameAcceptable name then (lookupEvent name s).1 else { status := .limit }

/-- LOOKUP changes nothing at the table. -/
theorem lookupEvent_state (name : List Byte) (s : State) : (lookupEvent name s).2 = s := by
  unfold lookupEvent
  split <;> rfl

/-- LOOKUP reads the channel table only, so the command may leave its queue first. -/
theorem lookupEvent_popCommand (name : List Byte) (p : PortId) (s : State) :
    lookupEvent name (popCommand p s) = ((lookupEvent name s).1, popCommand p s) := by
  refine Prod.ext ?_ (lookupEvent_state name _)
  cases found : channelNamed s name with
  | none => simp [lookupEvent, found]
  | some d => simp [lookupEvent, found]

/-- The LOOKUP row takes the command and only answers it. -/
theorem exec_lookup {s : State} {p : PortId} {c : Command} (h : takesNextAtTable s p c) (hcode : c.code = 0x21) :
    exec (.lookup p) s =
      .next (answeredOnly p c (lookupAnswer c.params s).status (lookupAnswer c.params s).results s) := by
  have hrow : rowOf Code.lookup c = true := by simp [rowOf, hcode, Code.lookup]
  have hpresent : (s.port p).record.state = .present := h.2.1
  refine congrArg Host.Outcome.next ?_
  cases acceptable : nameAcceptable c.params with
  | true =>
    have hparse : parseLookup c.params = some c.params := by simp [parseLookup, acceptable]
    have hcheck := checkCommand_present parseLookup noCheck (s.port p) c c.params hpresent hparse rfl
    simpa [lookupAnswer, acceptable] using
      tableCommand_answers h hrow hcheck (lookupEvent_popCommand c.params p s)
  | false =>
    have hparse : parseLookup c.params = none := by simp [parseLookup, acceptable]
    have hcheck := checkCommand_limit parseLookup noCheck (s.port p) c hpresent hparse
    simpa [lookupAnswer, acceptable] using tableCommand_error h.1 hrow hcheck

theorem lookupAnswer_limit {name : List Byte} {s : State} (h : nameAcceptable name = false) :
    lookupAnswer name s = { status := .limit } := by
  simp [lookupAnswer, h]

theorem lookupAnswer_nochannel {name : List Byte} {s : State} (h : nameAcceptable name = true)
    (unheld : channelNamed s name = none) : lookupAnswer name s = { status := .nochannel } := by
  simp [lookupAnswer, h, lookupEvent, unheld]

/-- A channel that is not UNUSED has the state byte 1 when OPEN and 2 when DRAINING (section 2.1, R167). -/
theorem stateByte_of_used {st : ChanState} (h : st ≠ .unused) :
    BitVec.ofNat 8 st.code = if st = .opened then 1 else 2 := by
  cases st with
  | unused => exact absurd rfl h
  | opened => rfl
  | draining => rfl

theorem lookupAnswer_ok {name : List Byte} {s : State} {d : ChanId} {k : Kind} (h : nameAcceptable name = true)
    (found : channelNamed s name = some d) (hkind : (s.chan d).kind = some k) :
    lookupAnswer name s =
      { status := .ok
        results := [BitVec.ofNat 8 d.val, BitVec.ofNat 8 k.code, if (s.chan d).state = .opened then 1 else 2] } := by
  have used : (s.chan d).state ≠ .unused := (channelNamed_some found).1
  simp [lookupAnswer, h, lookupEvent, found, hkind, enc1, stateByte_of_used used]

/-- Settles O31: LOOKUP only answers its command, and the answer is that of the one channel that holds the name. -/
theorem lookupFindsChannelByName : Obligations.LookupFindsChannelByName := by
  intro s p c taken hcode hlength unique
  have hanswered := answeredOnly_answered p c (lookupAnswer c.params s).status (lookupAnswer c.params s).results s
  refine ⟨_, exec_lookup taken hcode, answeredOnly_onlyPort p c _ _ s, answeredOnly_kept p c _ _ s, ?_, ?_⟩
  · intro unacceptable
    rwa [lookupAnswer_limit (nameAcceptable_eq_false unacceptable)] at hanswered ⊢
  · rintro ⟨inRange, notBlank⟩
    have acceptable := (nameAcceptable_iff c.params).mpr ⟨hlength, inRange, notBlank⟩
    refine ⟨fun d k used named hkind => ?_, fun unheld => ?_⟩
    · have found := channelNamed_eq_some used named fun e usedE namedE => unique e d usedE used namedE named
      rwa [lookupAnswer_ok acceptable found hkind] at hanswered ⊢
    · rwa [lookupAnswer_nochannel acceptable (channelNamed_eq_none_iff.mpr unheld)] at hanswered ⊢

end Sys2Proof.Machine

/-! Proofs: CHECKIN (R140). -/
namespace Sys2Proof.Machine

/-! ## A port whose command is taken and answered (R163) -/

@[simp] theorem popCommand_port_self (p : PortId) (s : State) :
    (popCommand p s).port p = { s.port p with link := (s.port p).link.popped } :=
  State.modPort_port_self s p _

@[simp] theorem answer_port_self (p : PortId) (c : Command) (st : Status) (results : List Byte) (s : State) :
    (answer p c st results s).port p =
      { s.port p with link := { (s.port p).link with
          responses := (s.port p).link.responses ++ [⟨c.tag, c.code, st, results⟩] } } :=
  State.modPort_port_self s p _

/-- The evaluation of XREQ leaves the rest of its port (R126). -/
theorem evalXreq_port_self (p : PortId) (s : State) :
    (evalXreq p s).port p = (s.port p).withXreqOf ((evalXreq p s).port p) := by
  obtain ⟨-, -, -, kept⟩ := evalXreq_frame p s
  exact kept p

/-! ## What a check-in pays off -/

/-- The port's record once a check-in has been taken: one less of debt down to -8, and no check-in owed (R140). -/
def PortRecord.checkedIn (x : PortRecord) : PortRecord :=
  { x with debt := (checkinDebt x.debt).1, checkinOwed := false }

/-- The results of a check-in at the given debt: the debt it leaves, and CREDIT_FULL (R140, R167). -/
def checkinResults (debt : Int) : List Byte := encDebt (checkinDebt debt).1 ++ encFlag (checkinDebt debt).2

/-- At -8 the debt stays and CREDIT_FULL is set; above it one is paid off. -/
theorem checkinDebt_eq {debt : Int} (h : -8 ≤ debt) :
    checkinDebt debt = if debt = -8 then (-8, true) else (debt - 1, false) := by
  unfold checkinDebt
  split
  · next full =>
    have : debt = -8 := by omega
    simp [this]
  · next owing =>
    have : debt ≠ -8 := by omega
    simp [this]

theorem PortRecord.checkedIn_eq {x : PortRecord} (h : -8 ≤ x.debt) :
    x.checkedIn = { x with debt := if x.debt = -8 then -8 else x.debt - 1, checkinOwed := false } := by
  rw [PortRecord.checkedIn, checkinDebt_eq h]
  split <;> rfl

theorem checkinResults_eq {debt : Int} (h : -8 ≤ debt) :
    checkinResults debt = if debt = -8 then [0xF8, 1] else [BitVec.ofInt 8 (debt - 1), 0] := by
  rw [checkinResults, checkinDebt_eq h]
  split <;> rfl

/-! ## What CHECKIN leaves -/

theorem checkinAct_onlyPort (p : PortId) (c : Command) (s : State) : onlyPort p s (checkinAct p c () s) :=
  onlyPort_trans (onlyPort_modPort p _ s) (answer_onlyPort p c _ _ _)

/-- CHECKIN taken from the queue: the record is checked in, the command is answered OK, and the rest of the port, the
period timer and the stream with its XREQ included, is as it was. -/
theorem checkinAct_port_self (p : PortId) (c : Command) (s : State) :
    (checkinAct p c () (popCommand p s)).port p =
      { s.port p with
        record := (s.port p).record.checkedIn
        link := (s.port p).link.answering c .ok (checkinResults (s.port p).record.debt) } := by
  simp [checkinAct, PortRecord.checkedIn, checkinResults, PortState.modRecord, Link.answering, Link.popped]

/-! ## The CHECKIN row -/

/-- In PRESENT the row makes the check-in, and the controller evaluates XREQ. -/
theorem exec_checkin_present {s : State} {p : PortId} {c : Command} (taken : takesNext s p c) (hcode : c.code = 0x12)
    (hparams : c.params = []) (present : (s.port p).record.state = .present) :
    exec (.checkin p) s = .next (evalXreq p (checkinAct p c () (popCommand p s))) := by
  have hrow : rowOf Code.checkin c = true := by simp [rowOf, hcode, Code.checkin]
  have hparse : parseNone c.params = some () := by rw [hparams]; rfl
  have hcheck := checkCommand_present parseNone noCheck (s.port p) c () present hparse rfl
  exact congrArg Host.Outcome.next ((takeCommand_ok taken hrow hcheck).trans (endPortEvent_eq rfl rfl))

/-- In a state that refuses CHECKIN the row only answers with that state (R137). -/
theorem exec_checkin_refused {s : State} {p : PortId} {c : Command} {st : Status} (taken : takesNext s p c)
    (hcode : c.code = 0x12) (refused : stateRefuses (s.port p).record.state Code.checkin = some st) :
    exec (.checkin p) s = .next (answeredOnly p c st [] s) := by
  have hrow : rowOf Code.checkin c = true := by simp [rowOf, hcode, Code.checkin]
  have hcheck := checkCommand_refused parseNone noCheck (s.port p) c st (hcode ▸ refused)
  exact congrArg Host.Outcome.next (takeCommand_error taken hrow hcheck)

/-- CHECKIN is refused in every state but PRESENT, with that state's status (R137). -/
theorem stateRefuses_checkin {state : Presence} {st : Status}
    (h : (state = .paused ∧ st = .paused) ∨ (state = .lapsed ∧ st = .lapsed) ∨ (state = .detached ∧ st = .detached)) :
    stateRefuses state Code.checkin = some st := by
  obtain ⟨rfl, rfl⟩ | ⟨rfl, rfl⟩ | ⟨rfl, rfl⟩ := h <;> rfl

/-- Settles O14: in PRESENT the check-in, in the other states the answer alone. -/
theorem checkinPaysOneBack : Obligations.CheckinPaysOneBack := by
  refine ⟨fun s p c taken hcode hparams present hdebt => ?_, fun s p c st taken hcode refusing => ?_⟩
  · refine ⟨_, exec_checkin_present taken hcode hparams present, ?_, ?_⟩
    · exact onlyPort_trans (popCommand_onlyPort p s)
        (onlyPort_trans (checkinAct_onlyPort p c _) (evalXreq_onlyPort p _))
    · have kept := evalXreq_port_self p (checkinAct p c () (popCommand p s))
      rwa [checkinAct_port_self, PortRecord.checkedIn_eq hdebt, checkinResults_eq hdebt] at kept
  · exact ⟨_, exec_checkin_refused taken hcode (stateRefuses_checkin refusing),
      answeredOnly_answered p c st [] s, answeredOnly_onlyPort p c st [] s, answeredOnly_kept p c st [] s⟩

end Sys2Proof.Machine

/-! Proofs: raised events (R151 to R153). -/
namespace Sys2Proof.Machine

/-! ## The event fold (R152) -/

theorem EventRecord.matches_eq_false_iff (x : EventRecord) (e : Event) :
    x.matches e = false ↔ ¬ (x.kind = e.kind ∧ x.subject = e.subject) := by
  rw [← Bool.not_eq_true, EventRecord.matches_iff]

/-- The first matching record takes the event where it stands; no other record moves or changes. -/
theorem foldEvent_append_cons {e : Event} {before : List EventRecord} {x : EventRecord} (after : List EventRecord)
    (first : ∀ y ∈ before, y.matches e = false) (hx : x.matches e = true) :
    foldEvent e (before ++ x :: after) = some (before ++ x.fold e :: after) := by
  induction before with
  | nil => simp [foldEvent, hx]
  | cons y before ih =>
    obtain ⟨hy, hbefore⟩ := List.forall_mem_cons.mp first
    simp [foldEvent, hy, ih hbefore]

/-- Folding fails exactly when no record matches. -/
theorem foldEvent_eq_none_iff {e : Event} {xs : List EventRecord} :
    foldEvent e xs = none ↔ ∀ y ∈ xs, y.matches e = false := by
  refine ⟨foldEvent_none, fun unmatched => Option.eq_none_iff_forall_ne_some.mpr fun ys folded => ?_⟩
  obtain ⟨before, x, after, rfl, -, hx, -⟩ := foldEvent_some folded
  simp [unmatched x (by simp)] at hx

/-! ## Queueing an accepted event: one equation per outcome -/

/-- A matching record folds the event, however many records are queued (R152). -/
theorem PortState.queueEvent_folds {q : PortState} {e : Event} {evs : List EventRecord}
    (folded : foldEvent e q.events = some evs) : q.queueEvent e = { q with events := evs } := by
  simp [PortState.queueEvent, folded]

/-- Without a matching record, a queue with room takes the event as a new record at its end (R152). -/
theorem PortState.queueEvent_appends {q : PortState} {e : Event} (unmatched : foldEvent e q.events = none)
    (room : q.events.length < 16) :
    q.queueEvent e = { q with events := q.events ++ [⟨e.kind, e.subject, e.sequence, 1, e.reason⟩] } := by
  simp [PortState.queueEvent, unmatched, Config.eventCapacity, room]

/-- Without a matching record, a full queue stays as it is and the event counts as lost (R153). -/
theorem PortState.queueEvent_loses {q : PortState} {e : Event} (unmatched : foldEvent e q.events = none)
    (full : 16 ≤ q.events.length) : q.queueEvent e = { q with lost := min 255 (q.lost + 1) } := by
  simp [PortState.queueEvent, unmatched, Config.eventCapacity, Nat.not_lt.mpr full]

/-! ## Raising an event to a port (R151) -/

theorem PortState.accepts_iff (q : PortState) (e : Event) :
    q.accepts e = true ↔
      q.record.enables.getLsbD e.kind.code = true ∧ (q.record.state = .present ∨ q.record.state = .paused) := by
  simp [PortState.accepts]

theorem raise_port_self (p : PortId) (e : Event) (s : State) : (raise p e s).port p = (s.port p).takeEvent e :=
  State.modPort_port_self s p _

/-- An accepted event is queued. -/
theorem raise_port_self_of_accepts {p : PortId} {e : Event} {s : State} (accepted : (s.port p).accepts e = true) :
    (raise p e s).port p = (s.port p).queueEvent e := by
  rw [raise_port_self, PortState.takeEvent, if_pos accepted]

theorem raise_port_ne {p o : PortId} (e : Event) (s : State) (h : o ≠ p) : (raise p e s).port o = s.port o :=
  State.modPort_port_ne s _ h

/-- An event that the port does not accept leaves no trace. -/
theorem raise_eq_self_of_not_accepts {p : PortId} {e : Event} {s : State} (dropped : ¬ (s.port p).accepts e = true) :
    raise p e s = s := by
  have untouched : (s.port p).takeEvent e = s.port p := if_neg dropped
  rw [raise, State.modPort, untouched, State.setPort_eq_self]

/-- Settles O21: a dropped event changes nothing, and an accepted one folds, is appended or is lost, each by the
equation of `queueEvent` for that outcome. -/
theorem raisedEventFoldsAppendsOrIsLost : Obligations.RaisedEventFoldsAppendsOrIsLost := by
  intro s p e
  refine ⟨fun dropped => ?_, ?_, fun _ => raise_port_ne e s,
    fun before after x accepted queued first kind subject => ?_, fun accepted unmatched => ?_⟩
  · exact raise_eq_self_of_not_accepts (mt (PortState.accepts_iff _ e).mp dropped)
  · rw [raise_port_self]
    exact takeEvent_withEventsOf (s.port p) e
  · have folded : foldEvent e (s.port p).events = some (before ++ x.fold e :: after) := by
      rw [queued]
      exact foldEvent_append_cons after (fun y hy => (y.matches_eq_false_iff e).mpr (first y hy))
        ((x.matches_iff e).mpr ⟨kind, subject⟩)
    rw [raise_port_self_of_accepts ((PortState.accepts_iff _ e).mpr accepted), PortState.queueEvent_folds folded]
    exact ⟨rfl, rfl⟩
  · have absent : foldEvent e (s.port p).events = none :=
      foldEvent_eq_none_iff.mpr fun y hy => (y.matches_eq_false_iff e).mpr (unmatched y hy)
    rw [raise_port_self_of_accepts ((PortState.accepts_iff _ e).mpr accepted)]
    refine ⟨fun room => ?_, fun full => ?_⟩
    · rw [PortState.queueEvent_appends absent room]
      exact ⟨rfl, rfl⟩
    · rw [PortState.queueEvent_loses absent full]
      exact ⟨rfl, rfl⟩

end Sys2Proof.Machine
